-- ==== Sys2Proof/Word.lean ====
section
/-! DEFINITION. The fixed-width unsigned values of the machine (00_scope.md R7): every register,
immediate and address is one of these, and none is signed. -/

namespace Sys2Proof

/-- `u8`: a general register, a timer, a memory byte, an immediate byte. -/
abbrev Byte := BitVec 8

/-- `u16`: I, PC, a stack slot, an opcode. -/
abbrev Word := BitVec 16

/-- `u4`: a register index (X, Y) or a count (N). -/
abbrev Nibble := BitVec 4

/-- `u12`: the address field NNN. -/
abbrev Addr := BitVec 12

/-- The framebuffer as the port `fb[2047:0]` numbers it (10_state.md R34): the pixel in row `y`,
column `x` is bit `y * 64 + x`. -/
abbrev Frame := BitVec 2048

end Sys2Proof
end

