-- ==== Sys2Proof/Syntax.lean ====
section
/-! DEFINITION. The 35 instructions of 30_encoding.md R94, one constructor per row of
spec/opcode_table.json, in the table's order, each with the operands R84's `decode` gives it.
Ignored fields (N of `5xyN` and `9xyN`, Y of `8xy6` and `8xyE`) are no operands (R84, R86, R87). -/

namespace Sys2Proof

inductive Instr where
  /-- `0nnn`, every word of family 0 but `00E0` and `00EE` (R120). -/
  | sys (nnn : Addr)
  /-- `00E0` (R191). -/
  | cls
  /-- `00EE` (R121). -/
  | ret
  /-- `1nnn` (R122). -/
  | jp (nnn : Addr)
  /-- `2nnn` (R123). -/
  | call (nnn : Addr)
  /-- `3xkk` (R124). -/
  | seByte (x : Nibble) (kk : Byte)
  /-- `4xkk` (R125). -/
  | sneByte (x : Nibble) (kk : Byte)
  /-- `5xyN`, canonical `5xy0` (R126). -/
  | seReg (x y : Nibble)
  /-- `6xkk` (R140). -/
  | ldByte (x : Nibble) (kk : Byte)
  /-- `7xkk` (R141). -/
  | addByte (x : Nibble) (kk : Byte)
  /-- `8xy0` (R142). -/
  | ldReg (x y : Nibble)
  /-- `8xy1` (R143). -/
  | or (x y : Nibble)
  /-- `8xy2` (R144). -/
  | and (x y : Nibble)
  /-- `8xy3` (R145). -/
  | xor (x y : Nibble)
  /-- `8xy4` (R146). -/
  | addReg (x y : Nibble)
  /-- `8xy5` (R147). -/
  | sub (x y : Nibble)
  /-- `8xy6`, Y ignored (R148). -/
  | shr (x : Nibble)
  /-- `8xy7` (R149). -/
  | subn (x y : Nibble)
  /-- `8xyE`, Y ignored (R150). -/
  | shl (x : Nibble)
  /-- `9xyN`, canonical `9xy0` (R127). -/
  | sneReg (x y : Nibble)
  /-- `Annn` (R170). -/
  | ldI (nnn : Addr)
  /-- `Bnnn` (R128). -/
  | jpV0 (nnn : Addr)
  /-- `Cxkk` (R151). -/
  | rnd (x : Nibble) (kk : Byte)
  /-- `Dxyn` (R193). -/
  | drw (x y n : Nibble)
  /-- `Ex9E` (R210). -/
  | skp (x : Nibble)
  /-- `ExA1` (R211). -/
  | sknp (x : Nibble)
  /-- `Fx07` (R213). -/
  | ldVxDt (x : Nibble)
  /-- `Fx0A` (R212). -/
  | ldVxK (x : Nibble)
  /-- `Fx15` (R214). -/
  | ldDtVx (x : Nibble)
  /-- `Fx18` (R215). -/
  | ldStVx (x : Nibble)
  /-- `Fx1E` (R171). -/
  | addIVx (x : Nibble)
  /-- `Fx29` (R172). -/
  | ldFVx (x : Nibble)
  /-- `Fx33` (R173). -/
  | ldBVx (x : Nibble)
  /-- `Fx55` (R174). -/
  | ldMemVx (x : Nibble)
  /-- `Fx65` (R175). -/
  | ldVxMem (x : Nibble)
  deriving DecidableEq, Repr

end Sys2Proof
end

