-- ==== Sys2Proof/WellFormed.lean ====
section
/-! DEFINITION. Which terms of `Instr` some opcode decodes to. The operand types carry every field
width; the one check left is that a machine call is not one of the two words `00E0` and `00EE`,
which have priority over `0nnn` (30_encoding.md R85, R91). -/

namespace Sys2Proof

/-- A machine call's NNN is neither 0x0E0 (CLS) nor 0x0EE (RET); every other term is well formed. -/
def Instr.wellFormed : Instr → Bool
  | .sys nnn => nnn != 0x0E0#12 && nnn != 0x0EE#12
  | .cls | .ret | .jp _ | .call _ => true
  | .seByte _ _ | .sneByte _ _ | .seReg _ _ | .sneReg _ _ | .jpV0 _ => true
  | .ldByte _ _ | .addByte _ _ | .ldReg _ _ | .or _ _ | .and _ _ | .xor _ _ => true
  | .addReg _ _ | .sub _ _ | .shr _ | .subn _ _ | .shl _ | .rnd _ _ => true
  | .ldI _ | .addIVx _ | .ldFVx _ | .ldBVx _ | .ldMemVx _ | .ldVxMem _ => true
  | .drw _ _ _ | .skp _ | .sknp _ | .ldVxDt _ | .ldVxK _ | .ldDtVx _ | .ldStVx _ => true

end Sys2Proof
end

