-- ==== Sys2Proof/Decode.lean ====
section
/-! DEFINITION. The decoder (30_encoding.md R81, R84 to R90), a total pure map from words to
instructions that rejects by name, and after it the encoder from the same table (R94). -/

namespace Sys2Proof

/-- `F = op[15:12]`, the family (30_encoding.md R81). -/
def opF (op : Word) : Nibble := op.extractLsb' 12 4

/-- `X = op[11:8]` (30_encoding.md R81, D2). -/
def opX (op : Word) : Nibble := op.extractLsb' 8 4

/-- `Y = op[7:4]` (30_encoding.md R81, D2). -/
def opY (op : Word) : Nibble := op.extractLsb' 4 4

/-- `N = op[3:0]` (30_encoding.md R81). -/
def opN (op : Word) : Nibble := op.extractLsb' 0 4

/-- `KK = op[7:0]` (30_encoding.md R81, D2). -/
def opKK (op : Word) : Byte := op.extractLsb' 0 8

/-- `NNN = op[11:0]` (30_encoding.md R81). -/
def opNNN (op : Word) : Addr := op.extractLsb' 0 12

/-- Why bytes are no instruction: a word no row of the table matches, or fewer than two bytes. -/
inductive Rejection where
  /-- The decoder's `InvalidOpcode` (30_encoding.md R84, R90). -/
  | invalidOpcode (op : Word)
  /-- Fewer than the two bytes every instruction has (30_encoding.md R80); the fetch never gives
  this, since it reads two bytes or faults (DESIGN CHOICE, log 30). -/
  | truncated (bytes : Nat)
  deriving DecidableEq, Repr

/-- Family 0x0: `00E0` and `00EE` on all 16 bits, every other word a machine call; it never fails
(30_encoding.md R85, D3). -/
def decodeFamily0 (op : Word) : Instr :=
  if op = 0x00E0#16 then .cls
  else if op = 0x00EE#16 then .ret
  else .sys (opNNN op)

/-- Family 0x8: the low nibble selects (30_encoding.md R87). -/
def decodeFamily8 (op : Word) : Except Rejection Instr :=
  match (opN op).toNat with
  | 0x0 => .ok (.ldReg (opX op) (opY op))
  | 0x1 => .ok (.or (opX op) (opY op))
  | 0x2 => .ok (.and (opX op) (opY op))
  | 0x3 => .ok (.xor (opX op) (opY op))
  | 0x4 => .ok (.addReg (opX op) (opY op))
  | 0x5 => .ok (.sub (opX op) (opY op))
  | 0x6 => .ok (.shr (opX op))
  | 0x7 => .ok (.subn (opX op) (opY op))
  | 0xE => .ok (.shl (opX op))
  | _ => .error (.invalidOpcode op)

/-- Family 0xE: the low byte selects (30_encoding.md R88). -/
def decodeFamilyE (op : Word) : Except Rejection Instr :=
  match (opKK op).toNat with
  | 0x9E => .ok (.skp (opX op))
  | 0xA1 => .ok (.sknp (opX op))
  | _ => .error (.invalidOpcode op)

/-- Family 0xF: the low byte selects (30_encoding.md R89). -/
def decodeFamilyF (op : Word) : Except Rejection Instr :=
  match (opKK op).toNat with
  | 0x07 => .ok (.ldVxDt (opX op))
  | 0x0A => .ok (.ldVxK (opX op))
  | 0x15 => .ok (.ldDtVx (opX op))
  | 0x18 => .ok (.ldStVx (opX op))
  | 0x1E => .ok (.addIVx (opX op))
  | 0x29 => .ok (.ldFVx (opX op))
  | 0x33 => .ok (.ldBVx (opX op))
  | 0x55 => .ok (.ldMemVx (opX op))
  | 0x65 => .ok (.ldVxMem (opX op))
  | _ => .error (.invalidOpcode op)

/-- `decode : u16 -> Variant or InvalidOpcode` (30_encoding.md R84): the top nibble selects the
family. The last arm is family 0xF. -/
def decode (op : Word) : Except Rejection Instr :=
  match (opF op).toNat with
  | 0x0 => .ok (decodeFamily0 op)
  | 0x1 => .ok (.jp (opNNN op))
  | 0x2 => .ok (.call (opNNN op))
  | 0x3 => .ok (.seByte (opX op) (opKK op))
  | 0x4 => .ok (.sneByte (opX op) (opKK op))
  | 0x5 => .ok (.seReg (opX op) (opY op))
  | 0x6 => .ok (.ldByte (opX op) (opKK op))
  | 0x7 => .ok (.addByte (opX op) (opKK op))
  | 0x8 => decodeFamily8 op
  | 0x9 => .ok (.sneReg (opX op) (opY op))
  | 0xA => .ok (.ldI (opNNN op))
  | 0xB => .ok (.jpV0 (opNNN op))
  | 0xC => .ok (.rnd (opX op) (opKK op))
  | 0xD => .ok (.drw (opX op) (opY op) (opN op))
  | 0xE => decodeFamilyE op
  | _ => decodeFamilyF op

/-- The opcode of two bytes, the one at the lower address the high byte (20_memory.md R55). -/
def wordOfBytes (hi lo : Byte) : Word :=
  hi.setWidth 16 <<< 8 ||| lo.setWidth 16

/-- The high byte of a word, which lies at the lower address (20_memory.md R55). -/
def hiByte (w : Word) : Byte := w.extractLsb' 8 8

/-- The low byte of a word, which lies at the higher address (20_memory.md R55). -/
def loByte (w : Word) : Byte := w.extractLsb' 0 8

/-- The decoder on bytes in address order: the instruction of the first two and the rest. -/
def decodeBytes : List Byte → Except Rejection (Instr × List Byte)
  | hi :: lo :: rest => (decode (wordOfBytes hi lo)).map fun i => (i, rest)
  | bytes => .error (.truncated bytes.length)

/-- The opcode a number gives when its bits are numbered as spec/opcode_table.json numbers them:
bit 0 is the least significant bit of the one word; bits at `nbits` and above are 0. -/
def tableOpcode (nbits w : Nat) : Word := BitVec.ofNat 16 (w % 2 ^ nbits)

/-- The instruction the decoder reads from the bytes of `tableOpcode nbits w`, laid out as the
hardware stores them; `none` where it refuses. -/
def decodeTableWord (nbits w : Nat) : Option Instr :=
  match decodeBytes [hiByte (tableOpcode nbits w), loByte (tableOpcode nbits w)] with
  | .ok (i, _) => some i
  | .error _ => none

/-- The word `F x kk` (format XKK, 30_encoding.md R82). -/
def packXKK (f x : Nibble) (kk : Byte) : Word :=
  f.setWidth 16 <<< 12 ||| x.setWidth 16 <<< 8 ||| kk.setWidth 16

/-- The word `F nnn` (format NNN, 30_encoding.md R82). -/
def packNNN (f : Nibble) (nnn : Addr) : Word :=
  f.setWidth 16 <<< 12 ||| nnn.setWidth 16

/-- The word `F x y n` (formats XY and XYN, 30_encoding.md R82). -/
def packXYN (f x y n : Nibble) : Word :=
  f.setWidth 16 <<< 12 ||| x.setWidth 16 <<< 8 ||| y.setWidth 16 <<< 4 ||| n.setWidth 16

/-- The canonical word of an instruction, from the patterns of 30_encoding.md R94; ignored fields
are written as zero (the canonical spellings of R86). -/
def encode : Instr → Word
  | .sys nnn => packNNN 0x0 nnn
  | .cls => 0x00E0
  | .ret => 0x00EE
  | .jp nnn => packNNN 0x1 nnn
  | .call nnn => packNNN 0x2 nnn
  | .seByte x kk => packXKK 0x3 x kk
  | .sneByte x kk => packXKK 0x4 x kk
  | .seReg x y => packXYN 0x5 x y 0x0
  | .ldByte x kk => packXKK 0x6 x kk
  | .addByte x kk => packXKK 0x7 x kk
  | .ldReg x y => packXYN 0x8 x y 0x0
  | .or x y => packXYN 0x8 x y 0x1
  | .and x y => packXYN 0x8 x y 0x2
  | .xor x y => packXYN 0x8 x y 0x3
  | .addReg x y => packXYN 0x8 x y 0x4
  | .sub x y => packXYN 0x8 x y 0x5
  | .shr x => packXYN 0x8 x 0x0 0x6
  | .subn x y => packXYN 0x8 x y 0x7
  | .shl x => packXYN 0x8 x 0x0 0xE
  | .sneReg x y => packXYN 0x9 x y 0x0
  | .ldI nnn => packNNN 0xA nnn
  | .jpV0 nnn => packNNN 0xB nnn
  | .rnd x kk => packXKK 0xC x kk
  | .drw x y n => packXYN 0xD x y n
  | .skp x => packXKK 0xE x 0x9E
  | .sknp x => packXKK 0xE x 0xA1
  | .ldVxDt x => packXKK 0xF x 0x07
  | .ldVxK x => packXKK 0xF x 0x0A
  | .ldDtVx x => packXKK 0xF x 0x15
  | .ldStVx x => packXKK 0xF x 0x18
  | .addIVx x => packXKK 0xF x 0x1E
  | .ldFVx x => packXKK 0xF x 0x29
  | .ldBVx x => packXKK 0xF x 0x33
  | .ldMemVx x => packXKK 0xF x 0x55
  | .ldVxMem x => packXKK 0xF x 0x65

/-- The two bytes of an instruction in address order (20_memory.md R55). -/
def encodeBytes (i : Instr) : List Byte := [hiByte (encode i), loByte (encode i)]

/-- The `mask` column of the opcode map (30_encoding.md R94). -/
def rowMask : Instr → Word
  | .cls | .ret => 0xFFFF
  | .sys _ | .jp _ | .call _ | .seByte _ _ | .sneByte _ _ | .seReg _ _ => 0xF000
  | .ldByte _ _ | .addByte _ _ | .sneReg _ _ | .ldI _ | .jpV0 _ | .rnd _ _ | .drw _ _ _ => 0xF000
  | .ldReg _ _ | .or _ _ | .and _ _ | .xor _ _ | .addReg _ _ | .sub _ _ | .shr _ => 0xF00F
  | .subn _ _ | .shl _ => 0xF00F
  | .skp _ | .sknp _ | .ldVxDt _ | .ldVxK _ | .ldDtVx _ | .ldStVx _ | .addIVx _ => 0xF0FF
  | .ldFVx _ | .ldBVx _ | .ldMemVx _ | .ldVxMem _ => 0xF0FF

/-- The `match` column of the opcode map (30_encoding.md R94). -/
def rowMatch : Instr → Word
  | .sys _ => 0x0000
  | .cls => 0x00E0
  | .ret => 0x00EE
  | .jp _ => 0x1000
  | .call _ => 0x2000
  | .seByte _ _ => 0x3000
  | .sneByte _ _ => 0x4000
  | .seReg _ _ => 0x5000
  | .ldByte _ _ => 0x6000
  | .addByte _ _ => 0x7000
  | .ldReg _ _ => 0x8000
  | .or _ _ => 0x8001
  | .and _ _ => 0x8002
  | .xor _ _ => 0x8003
  | .addReg _ _ => 0x8004
  | .sub _ _ => 0x8005
  | .shr _ => 0x8006
  | .subn _ _ => 0x8007
  | .shl _ => 0x800E
  | .sneReg _ _ => 0x9000
  | .ldI _ => 0xA000
  | .jpV0 _ => 0xB000
  | .rnd _ _ => 0xC000
  | .drw _ _ _ => 0xD000
  | .skp _ => 0xE09E
  | .sknp _ => 0xE0A1
  | .ldVxDt _ => 0xF007
  | .ldVxK _ => 0xF00A
  | .ldDtVx _ => 0xF015
  | .ldStVx _ => 0xF018
  | .addIVx _ => 0xF01E
  | .ldFVx _ => 0xF029
  | .ldBVx _ => 0xF033
  | .ldMemVx _ => 0xF055
  | .ldVxMem _ => 0xF065

end Sys2Proof
end

