-- ==== Sys2Proof/Config.lean ====
section
/-! DEFINITION. The fixed parameters of the machine (00_scope.md R6) and its free values: constants
with no body, of which nothing can be proved, for what the spec puts under no law. -/

namespace Sys2Proof

/-- MEM_SIZE (00_scope.md R6). -/
@[simp] abbrev Config.memSize : Nat := 4096

/-- LOAD_ADDR, where a program is loaded and the reset value of PC (00_scope.md R6). -/
@[simp] abbrev Config.loadAddr : Nat := 0x200

/-- STACK_DEPTH (00_scope.md R6). -/
@[simp] abbrev Config.stackDepth : Nat := 16

/-- DISP_W (00_scope.md R6). -/
@[simp] abbrev Config.dispW : Nat := 64

/-- DISP_H (00_scope.md R6). -/
@[simp] abbrev Config.dispH : Nat := 32

/-- The byte on the `rnd` port after `n` draws: "the spec puts the value under no law"
(10_state.md R32, 93 U1). FREE VALUE, DESIGN CHOICE, log 7. -/
opaque Config.rndByte : Nat → Byte

/-- What `Fx29` writes to I when the digit is 16 or more: the spec names FONT_DIGIT_POLICY and
states no result (43_index_memory.md R172, 93 U2). FREE VALUE, DESIGN CHOICE, log 5. -/
opaque Config.glyphAddrAbove15 : Byte → Word

/-- Whether the key with index 16 or more counts as pressed, given the snapshot: the spec names
KEY_INDEX_POLICY and states no result (45_keypad_timers.md R210, R211, 93 U3). FREE VALUE, DESIGN CHOICE, log 6. -/
opaque Config.keyAbove15 : BitVec 16 → Byte → Bool

/-- What draw `n` leaves in memory at an address of the range a faulting `Fx33` or `Fx55` could
have written (60_exceptions.md R239, 93 U4). FREE VALUE, DESIGN CHOICE, log 8. -/
opaque Config.faultMemByte : Nat → Nat → Byte

/-- What draw `n` leaves in a register a faulting `Fx65` could have written (60_exceptions.md
R239, 93 U4). FREE VALUE, DESIGN CHOICE, log 8. -/
opaque Config.faultRegByte : Nat → Nat → Byte

end Sys2Proof
end

