-- ==== Sys2Proof/Machine/State.lean ====
section
/-! DEFINITION. Everything the spec gives the machine (10_state.md section 1), as plain data: the
fatal conditions, the state, and the state after reset (10_state.md R35). -/

namespace Sys2Proof.Machine

/-- The five fatal conditions of 60_exceptions.md R230, each with the value it records in CAUSE.
A raise does not stop the model: it gives the next state, with `State.cause` set (DESIGN CHOICE, log 1). As an
outcome a fault is given by `step` on a halted engine only (40_step_cycle.md R107), the same for
every constructor, and by the host's load when it is refused (log 16). Safe: a halted engine has no
other successor. -/
inductive Fault where
  /-- Code 1, recorded: the opcode. Raised by the step's decode phase (60_exceptions.md R232).
  Safe. -/
  | invalidOpcode (op : Word)
  /-- Code 2, recorded: the index. Raised by nobody: a register index has 4 bits
  (60_exceptions.md R235). Safe. -/
  | registerOutOfRange (index : Nat)
  /-- Code 3. Raised by `2nnn` with 16 entries on the stack (60_exceptions.md R233). Safe. -/
  | stackOverflow
  /-- Code 4. Raised by `00EE` with an empty stack (60_exceptions.md R234). Safe. -/
  | stackUnderflow
  /-- Code 5, recorded: the first address of the access that is 4096 or more. Raised by the fetch,
  `Dxyn`, `Fx33`, `Fx55`, `Fx65` and the host's load (60_exceptions.md R231). Safe. -/
  | addressOutOfRange (addr : Nat)
  deriving DecidableEq, Repr

/-- Why the model gives an instruction no meaning. -/
inductive Refusal where
  /-- Raised by an arm of `exec` whose instruction has no meaning yet; no arm is left. Safe. -/
  | notModelled (mnemonic : String)
  deriving DecidableEq, Repr

/-- Memory contents: the cells that differ from the reset contents, addresses strictly rising
(Sys2Proof/Machine/Memory.lean, `Memory.wf`). -/
abbrev Memory := List Host.Cell

/-- The state of 10_state.md section 1, and the two inputs of a step (R30, R32), which the host
drives between steps. -/
structure State where
  /-- V[0]..V[15] (10_state.md R20); V[15] is VF (R21). -/
  v : Vector Byte 16
  /-- I, any 16-bit value (10_state.md R22). -/
  i : Word
  /-- PC (10_state.md R23). -/
  pc : Word
  /-- DT (10_state.md R24). -/
  dt : Byte
  /-- ST (10_state.md R25). -/
  st : Byte
  /-- STACK[0..15] (10_state.md R26). -/
  stack : Vector Word 16
  /-- SP, the number of entries, 0..16 (10_state.md R27). -/
  sp : Fin 17
  /-- MEM[0..4095] (10_state.md R28). -/
  mem : Memory
  /-- FB[0..31][0..63] (10_state.md R29, R34). -/
  fb : Frame
  /-- HALT and CAUSE (10_state.md R31): `none` is HALT = 0. -/
  cause : Option Fault
  /-- KEY[0..15], host-owned (10_state.md R30, R34): bit `k` is KEY[k]. -/
  key : BitVec 16
  /-- RND, the byte on the `rnd` port (10_state.md R32, R34). -/
  rnd : Byte
  /-- The MODEL's own: how many free values have been drawn (log 7, log 8). -/
  draws : Nat
  deriving DecidableEq, Repr

/-- The outcome of an instruction or a step. -/
abbrev Result := Host.Outcome State Fault Refusal

/-- The state after reset, 10_state.md R35 row by row. Memory lists nothing: every byte reads as
`Memory.resetByte` gives it. The inputs have no reset value in the spec: KEY all released (DESIGN CHOICE,
log 9), RND free (DESIGN CHOICE, log 7); the zeros are D9 (log 2). -/
def State.reset : State where
  v := Vector.replicate 16 0
  i := 0
  pc := 0x200
  dt := 0
  st := 0
  stack := Vector.replicate 16 0
  sp := 0
  mem := []
  fb := 0
  cause := none
  key := 0
  rnd := Config.rndByte 0
  draws := 1

end Sys2Proof.Machine
end

