-- ==== Sys2Proof/Machine/Memory.lean ====
section
/-! DEFINITION. The one address space (20_memory.md): its reset contents, and every read and write
of it, byte by byte. -/

namespace Sys2Proof.Machine

/-- The 80 font bytes (20_memory.md R52, D10; PRESUMED, log 4), digit 0 first, five bytes
a digit. -/
def fontTable : List Byte :=
  [0xF0, 0x90, 0x90, 0x90, 0xF0] ++ [0x20, 0x60, 0x20, 0x20, 0x70] ++
  [0xF0, 0x10, 0xF0, 0x80, 0xF0] ++ [0xF0, 0x10, 0xF0, 0x10, 0xF0] ++
  [0x90, 0x90, 0xF0, 0x10, 0x10] ++ [0xF0, 0x80, 0xF0, 0x10, 0xF0] ++
  [0xF0, 0x80, 0xF0, 0x90, 0xF0] ++ [0xF0, 0x10, 0x20, 0x40, 0x40] ++
  [0xF0, 0x90, 0xF0, 0x90, 0xF0] ++ [0xF0, 0x90, 0xF0, 0x10, 0xF0] ++
  [0xF0, 0x90, 0xF0, 0x90, 0x90] ++ [0xE0, 0x90, 0xE0, 0x90, 0xE0] ++
  [0xF0, 0x80, 0x80, 0x80, 0xF0] ++ [0xE0, 0x90, 0x90, 0x90, 0xE0] ++
  [0xF0, 0x80, 0xF0, 0x80, 0xF0] ++ [0xF0, 0x80, 0xF0, 0x80, 0x80]

/-- What an address reads as after reset, and so while memory lists nothing at it: the font at
0x000..0x04F, zero everywhere else (10_state.md R35; DESIGN CHOICE, log 3). -/
def Memory.resetByte (a : Nat) : Byte := fontTable.getD a 0

/-- MEM[a], for an address of the space. -/
def Memory.peek : Memory → Nat → Byte
  | [], a => Memory.resetByte a
  | (k, b) :: rest, a => if a = k then b else Memory.peek rest a

/-- Puts a cell in its place by address. -/
def Memory.insert : Memory → Nat → Byte → Memory
  | [], a, b => [(a, b)]
  | (k, c) :: rest, a, b =>
    if a < k then (a, b) :: (k, c) :: rest
    else if a = k then (a, b) :: rest
    else (k, c) :: Memory.insert rest a b

/-- Takes the cell at an address out. -/
def Memory.erase : Memory → Nat → Memory
  | [], _ => []
  | (k, c) :: rest, a => if a = k then rest else (k, c) :: Memory.erase rest a

/-- MEM[a] <- b for an address of the space; nothing for any other (20_memory.md R54: memory is
not written at any wrapped address). A byte equal to the reset contents is not listed. -/
def Memory.poke (m : Memory) (a : Nat) (b : Byte) : Memory :=
  if a < Config.memSize then
    if b = Memory.resetByte a then Memory.erase m a else Memory.insert m a b
  else m

/-- The canonical form: addresses strictly rising, all below 4096, no cell equal to the reset
contents. -/
abbrev Memory.wf (m : Memory) : Prop :=
  m.Pairwise (fun c d => c.1 < d.1) ∧
    ∀ c ∈ m, c.1 < Config.memSize ∧ c.2 ≠ Memory.resetByte c.1

/-- `MemRead(addr, 1)` (20_memory.md R53). -/
def Memory.read (m : Memory) (a : Nat) : Except Fault Byte :=
  if a < Config.memSize then .ok (m.peek a) else .error (.addressOutOfRange a)

/-- `MemWrite(addr, 1, v)` (20_memory.md R54). -/
def Memory.write (m : Memory) (a : Nat) (b : Byte) : Except Fault Memory :=
  if a < Config.memSize then .ok (m.poke a b) else .error (.addressOutOfRange a)

/-- `MemRead(addr, 2)`, the instruction fetch: two byte reads in address order, the byte at the
lower address in the high half (00_scope.md R12, 20_memory.md R55). -/
def Memory.readWord (m : Memory) (a : Nat) : Except Fault Word :=
  match m.read a with
  | .error f => .error f
  | .ok hi =>
    match m.read (a + 1) with
    | .error f => .error f
    | .ok lo => .ok (wordOfBytes hi lo)

/-- The first address of an access of `n` bytes from `a`, already known to leave the space, that is
4096 or more (60_exceptions.md R231, R237; DEDUCED, log 21). -/
def firstOutOfRange (a : Nat) : Nat := max a Config.memSize

/-- `SpriteRead(addr, n)`: the bounds check first, also for `n = 0`, then the `n` bytes, row 0
first (20_memory.md R65). -/
def Memory.readSprite (m : Memory) (a n : Nat) : Except Fault (List Byte) :=
  if a + n ≤ Config.memSize then .ok ((List.range n).map fun k => m.peek (a + k))
  else .error (.addressOutOfRange (firstOutOfRange a))

/-- The bytes written at ascending addresses from `a` (20_memory.md R56). -/
def Memory.pokeAll : Memory → Nat → List Byte → Memory
  | m, _, [] => m
  | m, a, b :: rest => Memory.pokeAll (m.poke a b) (a + 1) rest

/-- `n` bytes from `a` up replaced by the free values of draw `draw` (60_exceptions.md R239, log
8); addresses outside the space stay unwritten. -/
def Memory.forget : Memory → Nat → Nat → Nat → Memory
  | m, _, 0, _ => m
  | m, a, n + 1, draw => Memory.forget (m.poke a (Config.faultMemByte draw a)) (a + 1) n draw

end Sys2Proof.Machine
end

