-- ==== Sys2Proof/Machine/Ops.lean ====
section
/-! DEFINITION. The named operations over State: one update per field, raising a fatal condition
(60_exceptions.md R238), the call stack (10_state.md R27), and the parts of a step around the
dispatch (40_step_cycle.md R101, R103, R104). -/

namespace Sys2Proof.Machine

/-- V[x] (00_scope.md R11). -/
def State.getV (s : State) (x : Nibble) : Byte := s.v[x.toNat]'x.isLt

/-- V[x] <- b. -/
def State.setV (s : State) (x : Nibble) (b : Byte) : State :=
  { s with v := s.v.set x.toNat b x.isLt }

/-- The whole register file replaced (the block load). -/
def State.setRegs (s : State) (v : Vector Byte 16) : State := { s with v := v }

/-- I <- w. -/
def State.setI (s : State) (w : Word) : State := { s with i := w }

/-- PC <- w. -/
def State.setPc (s : State) (w : Word) : State := { s with pc := w }

/-- DT <- b. -/
def State.setDt (s : State) (b : Byte) : State := { s with dt := b }

/-- ST <- b. -/
def State.setSt (s : State) (b : Byte) : State := { s with st := b }

/-- The stack slots and SP replaced. -/
def State.setStack (s : State) (k : Vector Word 16) (sp : Fin 17) : State :=
  { s with stack := k, sp := sp }

/-- MEM replaced. -/
def State.setMem (s : State) (m : Memory) : State := { s with mem := m }

/-- FB replaced. -/
def State.setFb (s : State) (fb : Frame) : State := { s with fb := fb }

/-- HALT and CAUSE replaced. -/
def State.setCause (s : State) (c : Option Fault) : State := { s with cause := c }

/-- KEY replaced, by the host only (10_state.md R30). -/
def State.setKeys (s : State) (k : BitVec 16) : State := { s with key := k }

/-- The byte on the `rnd` port replaced. -/
def State.setRnd (s : State) (b : Byte) : State := { s with rnd := b }

/-- One more free value has been drawn (log 7, log 8). -/
def State.countDraw (s : State) : State := { s with draws := s.draws + 1 }

/-- The `rnd` port after its byte has been consumed: a fresh free value (10_state.md R32: "each
dispatch of `Cxkk` consumes one value of `RND`"; log 7). -/
def State.redrawRnd (s : State) : State := (s.setRnd (Config.rndByte s.draws)).countDraw

/-- TAKING A FATAL CONDITION (60_exceptions.md R238): HALT <- 1, CAUSE <- the condition, and
control goes nowhere. What the step wrote before the raise stays written (R239). -/
def State.raise (s : State) (f : Fault) : State := s.setCause (some f)

/-- The outcome of a `raise`: the next state is the halted one (log 1). There is no return from it
(60_exceptions.md R240): only the host's reset clears HALT (Sys2Proof/Machine/HostPort.lean). -/
def raised (f : Fault) (s : State) : Result := .next (s.raise f)

/-- HALT (10_state.md R31). -/
def State.halted (s : State) : Bool := s.cause.isSome

/-- The numeric code of a fatal condition (60_exceptions.md R230). -/
def Fault.code : Fault → Nat
  | .invalidOpcode _ => 1
  | .registerOutOfRange _ => 2
  | .stackOverflow => 3
  | .stackUnderflow => 4
  | .addressOutOfRange _ => 5

/-- The value a fatal condition records in CAUSE, if any (60_exceptions.md R230). -/
def Fault.recorded : Fault → Option Nat
  | .invalidOpcode op => some op.toNat
  | .registerOutOfRange index => some index
  | .stackOverflow => none
  | .stackUnderflow => none
  | .addressOutOfRange addr => some addr

/-- Push (10_state.md R27): `none` when SP = 16; else the slot at SP is written and SP goes up. -/
def State.push (s : State) (w : Word) : Option State :=
  if h : s.sp.val < 16 then
    some (s.setStack (s.stack.set s.sp.val w h) ⟨s.sp.val + 1, by omega⟩)
  else none

/-- Pop (10_state.md R27): `none` when SP = 0; else SP goes down and the slot it then names is
read; the slot keeps its contents. -/
def State.pop (s : State) : Option (Word × State) :=
  if h : s.sp.val = 0 then none
  else
    have lt : s.sp.val - 1 < 16 := by omega
    some (s.stack[s.sp.val - 1]'lt, s.setStack s.stack ⟨s.sp.val - 1, by omega⟩)

/-- Phase 1, fetch (40_step_cycle.md R101). -/
def State.fetch (s : State) : Except Fault Word := s.mem.readWord s.pc.toNat

/-- Phase 3, advance (40_step_cycle.md R103). -/
def State.advance (s : State) : State := s.setPc (s.pc + 2)

/-- One timer's decrement, floored at zero (10_state.md R24, R25). -/
def countDown (b : Byte) : Byte := if b = 0 then 0 else b - 1

/-- Phase 4, timers (40_step_cycle.md R104). -/
def State.tick (s : State) : State := (s.setDt (countDown s.dt)).setSt (countDown s.st)

/-- The state an instruction's dispatch sees: phases 3 and 4 done (00_scope.md R14). -/
def State.dispatchState (s : State) : State := s.advance.tick

/-- An opcode stored where the next step fetches, high byte first. If no step could fetch there (the
engine is halted, or PC is 4095 or more), the engine is first put where it can: not halted, PC at
the load address (log 17). -/
def State.placeOpcode (s : State) (op : Word) : State :=
  let t := (s.setCause none).setPc (if s.pc.toNat < 4095 then s.pc else 0x200)
  t.setMem ((t.mem.poke t.pc.toNat (hiByte op)).poke (t.pc.toNat + 1) (loByte op))

end Sys2Proof.Machine
end

