-- ==== Sys2Proof/Machine/Operands.lean ====
section
/-! DEFINITION. The operand forms: zero extension (30_encoding.md R83), effective addresses I + k
(43_index_memory.md R176) with the block transfers through them, the digit and key operands held in
a register, and the skip. -/

namespace Sys2Proof.Machine

/-- `zext_16` of a byte (00_scope.md R9). -/
def zextByte (b : Byte) : Word := b.setWidth 16

/-- `zext_16` of NNN (30_encoding.md R83). -/
def zextAddr (a : Addr) : Word := a.setWidth 16

/-- VF's index (10_state.md R21). -/
def vf : Nibble := 0xF

/-- I as an unbounded address; I + k is never reduced (43_index_memory.md R176). -/
def State.base (s : State) : Nat := s.i.toNat

/-- A skip's further advance: PC <- PC + 2 when the condition holds (41_control_flow.md R124). -/
def State.skipIf (s : State) (c : Bool) : State := if c then s.setPc (s.pc + 2) else s

/-- V[0], ..., V[x], the registers of a block transfer, both bounds inclusive
(43_index_memory.md R174). -/
def State.regsUpTo (s : State) (x : Nibble) : List Byte := s.v.toList.take (x.toNat + 1)

/-- The store of `bytes` at I upward (43_index_memory.md R173, R174): all of them when the last
address is in range; otherwise `AddressOutOfRange` with the first address that is not, and every
byte the store could have written, MEM[I..4095], free (60_exceptions.md R239, log 8). The check
comes before the writes (DEDUCED, log 27). -/
def State.storeAtI (s : State) (bytes : List Byte) : Result :=
  if s.base + bytes.length ≤ Config.memSize then .next (s.setMem (s.mem.pokeAll s.base bytes))
  else
    raised (.addressOutOfRange (firstOutOfRange s.base))
      (s.setMem (s.mem.forget s.base (Config.memSize - s.base) s.draws)).countDraw

/-- The registers after V[0..x] are loaded from I upward (43_index_memory.md R175). -/
def State.loadedRegs (s : State) (x : Nibble) : Vector Byte 16 :=
  Vector.ofFn fun k : Fin 16 => if k.val ≤ x.toNat then s.mem.peek (s.base + k.val) else s.v[k]

/-- The registers after a faulting load: V[0..x] free, the rest as before (60_exceptions.md R239,
log 8). -/
def State.forgottenRegs (s : State) (x : Nibble) : Vector Byte 16 :=
  Vector.ofFn fun k : Fin 16 =>
    if k.val ≤ x.toNat then Config.faultRegByte s.draws k.val else s.v[k]

/-- The load of V[0..x] from I upward (43_index_memory.md R175), with the fault of
60_exceptions.md R231. -/
def State.loadFromI (s : State) (x : Nibble) : Result :=
  if s.base + x.toNat < Config.memSize then .next (s.setRegs (s.loadedRegs x))
  else
    raised (.addressOutOfRange (firstOutOfRange s.base)) (s.setRegs (s.forgottenRegs x)).countDraw

/-- The three decimal digits of a byte, hundreds first, each a byte (20_memory.md R68). -/
def bcdDigits (b : Byte) : List Byte :=
  [BitVec.ofNat 8 (b.toNat / 100), BitVec.ofNat 8 (b.toNat / 10 % 10), BitVec.ofNat 8 (b.toNat % 10)]

/-- `font_glyph_address` (20_memory.md R67) for a digit 0..15; a free value for any other byte
(43_index_memory.md R172, log 5). -/
def glyphAddr (d : Byte) : Word :=
  if d ≤ 15 then zextByte d * 5 else Config.glyphAddrAbove15 d

/-- KEY[k] for an index 0..15 (10_state.md R30); free for any other byte (45_keypad_timers.md
R210, log 6). -/
def State.keyPressed (s : State) (k : Byte) : Bool :=
  if k ≤ 15 then s.key.getLsbD k.toNat else Config.keyAbove15 s.key k

/-- The smallest index of a pressed key, by a scan in increasing order (45_keypad_timers.md R212,
D28, log 24). -/
def State.lowestKey (s : State) : Option Nat := (List.range 16).find? fun k => s.key.getLsbD k

end Sys2Proof.Machine
end

