-- ==== Sys2Proof/Machine/Flags.lean ====
section
/-! DEFINITION. Every flag computation of the spec (10_state.md R21): carry, not-borrow, the bit
shifted out, the collision, each stored as the byte 0x01 or 0x00, and the order of the two writes
(42_alu.md R153). -/

namespace Sys2Proof.Machine

/-- A flag as the byte VF holds: 0x01 or 0x00, never a single bit (10_state.md R21). -/
def flagByte (c : Bool) : Byte := if c then 1 else 0

/-- The exact sum of two bytes exceeds 255 (42_alu.md R146). -/
def carryOut (a b : Byte) : Bool := a.toNat + b.toNat > 255

/-- `a - b` needs no borrow: `a >= b` (42_alu.md R154). -/
def noBorrow (a b : Byte) : Bool := b.toNat ≤ a.toNat

/-- The bit a right shift by one shifts out (42_alu.md R148). -/
def lowBit (a : Byte) : Bool := a.getLsbD 0

/-- The bit a left shift by one shifts out (42_alu.md R150). -/
def highBit (a : Byte) : Bool := a.getLsbD 7

/-- V[x] <- r, then VF <- the flag, so that with x = 15 VF ends as the flag (42_alu.md R153, D11,
log 10). -/
def State.setResultThenFlag (s : State) (x : Nibble) (r : Byte) (c : Bool) : State :=
  (s.setV x r).setV vf (flagByte c)

end Sys2Proof.Machine
end

