-- ==== Sys2Proof/Machine/Alu.lean ====
section
/-! DEFINITION. Register loads and the ALU (42_alu.md). No instruction of this file raises a fault;
only the five with `setResultThenFlag` write VF as a side effect (10_state.md R21). -/

namespace Sys2Proof.Machine

/-- `6xkk` LD Vx, byte (42_alu.md R140). -/
def execLdByte (x : Nibble) (kk : Byte) (s : State) : Result := .next (s.setV x kk)

/-- `7xkk` ADD Vx, byte: modulo 256, no flag (42_alu.md R141, D12, log 10). -/
def execAddByte (x : Nibble) (kk : Byte) (s : State) : Result := .next (s.setV x (s.getV x + kk))

/-- `8xy0` LD Vx, Vy (42_alu.md R142). -/
def execLdReg (x y : Nibble) (s : State) : Result := .next (s.setV x (s.getV y))

/-- `8xy1` OR Vx, Vy (42_alu.md R143). -/
def execOr (x y : Nibble) (s : State) : Result := .next (s.setV x (s.getV x ||| s.getV y))

/-- `8xy2` AND Vx, Vy (42_alu.md R144). -/
def execAnd (x y : Nibble) (s : State) : Result := .next (s.setV x (s.getV x &&& s.getV y))

/-- `8xy3` XOR Vx, Vy (42_alu.md R145). -/
def execXor (x y : Nibble) (s : State) : Result := .next (s.setV x (s.getV x ^^^ s.getV y))

/-- `8xy4` ADD Vx, Vy (42_alu.md R146). -/
def execAddReg (x y : Nibble) (s : State) : Result :=
  .next (s.setResultThenFlag x (s.getV x + s.getV y) (carryOut (s.getV x) (s.getV y)))

/-- `8xy5` SUB Vx, Vy (42_alu.md R147). -/
def execSub (x y : Nibble) (s : State) : Result :=
  .next (s.setResultThenFlag x (s.getV x - s.getV y) (noBorrow (s.getV x) (s.getV y)))

/-- `8xy6` SHR Vx (42_alu.md R148). -/
def execShr (x : Nibble) (s : State) : Result :=
  .next (s.setResultThenFlag x (s.getV x >>> 1) (lowBit (s.getV x)))

/-- `8xy7` SUBN Vx, Vy (42_alu.md R149). -/
def execSubn (x y : Nibble) (s : State) : Result :=
  .next (s.setResultThenFlag x (s.getV y - s.getV x) (noBorrow (s.getV y) (s.getV x)))

/-- `8xyE` SHL Vx (42_alu.md R150). -/
def execShl (x : Nibble) (s : State) : Result :=
  .next (s.setResultThenFlag x (s.getV x <<< 1) (highBit (s.getV x)))

/-- `Cxkk` RND Vx, byte: the byte on the `rnd` port masked; that byte is consumed (42_alu.md R151,
10_state.md R32). -/
def execRnd (x : Nibble) (kk : Byte) (s : State) : Result :=
  .next (s.setV x (s.rnd &&& kk)).redrawRnd

end Sys2Proof.Machine
end

