-- ==== Sys2Proof/Machine/ControlFlow.lean ====
section
/-! DEFINITION. Control flow (41_control_flow.md): SYS, RET, JP, CALL, the skips on registers, JP V0.
Each is phase 5 of the step: PC already holds the instruction's own address plus 2. -/

namespace Sys2Proof.Machine

/-- `0nnn` SYS addr, a no-op (41_control_flow.md R120). -/
def execSys (_nnn : Addr) (s : State) : Result := .next s

/-- `00EE` RET (41_control_flow.md R121). -/
def execRet (s : State) : Result :=
  match s.pop with
  | none => raised .stackUnderflow s
  | some (w, t) => .next (t.setPc w)

/-- `1nnn` JP addr (41_control_flow.md R122). -/
def execJp (nnn : Addr) (s : State) : Result := .next (s.setPc (zextAddr nnn))

/-- `2nnn` CALL addr (41_control_flow.md R123). -/
def execCall (nnn : Addr) (s : State) : Result :=
  match s.push s.pc with
  | none => raised .stackOverflow s
  | some t => .next (t.setPc (zextAddr nnn))

/-- `3xkk` SE Vx, byte (41_control_flow.md R124). -/
def execSeByte (x : Nibble) (kk : Byte) (s : State) : Result := .next (s.skipIf (s.getV x == kk))

/-- `4xkk` SNE Vx, byte (41_control_flow.md R125). -/
def execSneByte (x : Nibble) (kk : Byte) (s : State) : Result := .next (s.skipIf (s.getV x != kk))

/-- `5xyN` SE Vx, Vy (41_control_flow.md R126). -/
def execSeReg (x y : Nibble) (s : State) : Result := .next (s.skipIf (s.getV x == s.getV y))

/-- `9xyN` SNE Vx, Vy (41_control_flow.md R127). -/
def execSneReg (x y : Nibble) (s : State) : Result := .next (s.skipIf (s.getV x != s.getV y))

/-- `Bnnn` JP V0, addr: NNN + V[0] in 16 bits, not reduced to 12 (41_control_flow.md R128, D15,
log 23). -/
def execJpV0 (nnn : Addr) (s : State) : Result :=
  .next (s.setPc (zextAddr nnn + zextByte (s.getV 0)))

end Sys2Proof.Machine
end

