-- ==== Sys2Proof/Machine/Display.lean ====
section
/-! DEFINITION. The framebuffer (44_display.md): CLS, DRW, the draw procedure and its collision. -/

namespace Sys2Proof.Machine

/-- The bit of the framebuffer that is pixel `(px, py)` (10_state.md R34, 44_display.md R190; DEDUCED,
log 25). -/
def pixelIndex (px py : Nat) : Nat := py * Config.dispW + px

/-- FB[py][px]. -/
def pixel (fb : Frame) (px py : Nat) : Bool := fb.getLsbD (pixelIndex px py)

/-- FB[py][px] <- FB[py][px] ^ bit. -/
def xorPixel (fb : Frame) (px py : Nat) (bit : Bool) : Frame :=
  if bit then fb ^^^ BitVec.twoPow 2048 (pixelIndex px py) else fb

/-- One pixel of a sprite: the XOR at the wrapped coordinates, and the collision recorded when an
on pixel meets a 1 bit (44_display.md R192). -/
def plot (x y : Nat) (bit : Bool) (acc : Frame × Bool) : Frame × Bool :=
  let px := x % Config.dispW
  let py := y % Config.dispH
  (xorPixel acc.1 px py bit, acc.2 || (pixel acc.1 px py && bit))

/-- The first `n` columns of a sprite row, most significant bit first (44_display.md R192). -/
def drawRow (x y : Nat) (row : Byte) : Nat → Frame × Bool → Frame × Bool
  | 0, acc => acc
  | j + 1, acc => plot (x + j) y (row.getLsbD (7 - j)) (drawRow x y row j acc)

/-- `Draw(x, y, rows)` from a framebuffer and a collision so far (44_display.md R192): 8 columns a
row, row 0 first. -/
def drawRows (x : Nat) : Nat → List Byte → Frame × Bool → Frame × Bool
  | _, [], acc => acc
  | y, row :: rest, acc => drawRows x (y + 1) rest (drawRow x y row 8 acc)

/-- `00E0` CLS: every pixel off (44_display.md R191). -/
def execCls (s : State) : Result := .next (s.setFb 0)

/-- `Dxyn` DRW Vx, Vy, nibble (44_display.md R193): the coordinates are read and the sprite's bounds
checked before any pixel or VF is written (D21, log 22). -/
def execDrw (x y n : Nibble) (s : State) : Result :=
  match s.mem.readSprite s.base n.toNat with
  | .error f => raised f s
  | .ok rows =>
    let drawn := drawRows (s.getV x).toNat (s.getV y).toNat rows (s.fb, false)
    .next ((s.setFb drawn.1).setV vf (flagByte drawn.2))

end Sys2Proof.Machine
end

