-- ==== Sys2Proof/Machine/IndexMemory.lean ====
section
/-! DEFINITION. Index register and memory instructions (43_index_memory.md). None of them writes VF
as a side effect, and none that accesses memory changes I (R176). -/

namespace Sys2Proof.Machine

/-- `Annn` LD I, addr (43_index_memory.md R170). -/
def execLdI (nnn : Addr) (s : State) : Result := .next (s.setI (zextAddr nnn))

/-- `Fx1E` ADD I, Vx: modulo 65536, no flag, no range check (43_index_memory.md R171,
D12, D14, log 10, log 23). -/
def execAddIVx (x : Nibble) (s : State) : Result := .next (s.setI (s.i + zextByte (s.getV x)))

/-- `Fx29` LD F, Vx (43_index_memory.md R172). -/
def execLdFVx (x : Nibble) (s : State) : Result := .next (s.setI (glyphAddr (s.getV x)))

/-- `Fx33` LD B, Vx (43_index_memory.md R173). -/
def execLdBVx (x : Nibble) (s : State) : Result := s.storeAtI (bcdDigits (s.getV x))

/-- `Fx55` LD [I], Vx (43_index_memory.md R174). -/
def execLdMemVx (x : Nibble) (s : State) : Result := s.storeAtI (s.regsUpTo x)

/-- `Fx65` LD Vx, [I] (43_index_memory.md R175). -/
def execLdVxMem (x : Nibble) (s : State) : Result := s.loadFromI x

end Sys2Proof.Machine
end

