-- ==== Sys2Proof/Machine/Step.lean ====
section
/-! DEFINITION. The step (40_step_cycle.md R100) and the place its next instruction is fetched
from. -/

namespace Sys2Proof.Machine

/-- One step: a halted engine repeats its fault and changes nothing (R107); otherwise fetch (R101),
decode (R102), advance (R103), timers (R104), dispatch (R105). A fault of phase 1 or 2 leaves all
else as it was (60_exceptions.md R239). -/
def step (s : State) : Host.Outcome State Fault Refusal :=
  match s.cause with
  | some f => .fault f
  | none =>
    match s.fetch with
    | .error f => raised f s
    | .ok op =>
      match decode op with
      | .error _ => raised (.invalidOpcode op) s
      | .ok i => exec i s.dispatchState

/-- `s` with the opcode `w` (numbered as spec/opcode_table.json numbers it) where `step` fetches its
next instruction, so that `step` runs exactly it (log 17). -/
def State.withFetchWord (s : State) (nbits w : Nat) : State := s.placeOpcode (tableOpcode nbits w)

end Sys2Proof.Machine
end

