-- ==== Sys2Proof/Machine/HostPort.lean ====
section
/-! DEFINITION. What the host may do between steps (70_reset_and_hazards.md R266) and what it reads
(10_state.md R34). -/

namespace Sys2Proof.Machine

/-- `reset`: every piece of state to its reset value; the inputs KEY and RND are the host's and stay
(70_reset_and_hazards.md R260; the model's draw counter stays too, so that no free value repeats; DESIGN CHOICE, log 29). -/
def State.hostReset (s : State) : State :=
  { State.reset with key := s.key, rnd := s.rnd, draws := s.draws }

/-- `load(bytes)`: MEM[0x200 + k] <- b[k]; a sequence that would pass 4095 is refused whole and
changes nothing, HALT included (70_reset_and_hazards.md R262, D24, log 16). -/
def State.load (s : State) (bytes : List Byte) : Result :=
  if Config.loadAddr + bytes.length ≤ Config.memSize then
    .next (s.setMem (s.mem.pokeAll Config.loadAddr bytes))
  else .fault (.addressOutOfRange Config.memSize)

/-- A key snapshot with KEY[k] set to `pressed`. -/
def setKeyBit (keys : BitVec 16) (k : Nibble) (pressed : Bool) : BitVec 16 :=
  if pressed then keys ||| BitVec.twoPow 16 k.toNat else keys &&& ~~~(BitVec.twoPow 16 k.toNat)

/-- `set_key(k, p)` (70_reset_and_hazards.md R264). -/
def State.setKey (s : State) (k : Nibble) (pressed : Bool) : State :=
  s.setKeys (setKeyBit s.key k pressed)

/-- The host's moves that act on the machine (70_reset_and_hazards.md R266; log 19, log 26). -/
inductive HostMove where
  | reset
  | load (bytes : List Byte)
  | setKey (k : Nibble) (pressed : Bool)
  | supplyRnd (b : Byte)
  | step
  deriving DecidableEq, Repr

/-- One host move (70_reset_and_hazards.md R266). -/
def hostMove (m : HostMove) (s : State) : Result :=
  match m with
  | .reset => .next s.hostReset
  | .load bytes => s.load bytes
  | .setKey k pressed => .next (s.setKey k pressed)
  | .supplyRnd b => .next (s.setRnd b)
  | .step => step s

/-- The port `fb[2047:0]`, bit `y * 64 + x` = FB[y][x] (10_state.md R34, 70_reset_and_hazards.md
R265). -/
def State.fbPort (s : State) : Frame := s.fb

/-- The port `st[7:0]` (10_state.md R34). -/
def State.stPort (s : State) : Byte := s.st

/-- `snd = (ST != 0)` (10_state.md R34, D26). -/
def State.snd (s : State) : Bool := s.st != 0

/-- The port `fault`: HALT, and CAUSE as its code and recorded value (10_state.md R34,
60_exceptions.md R230). -/
def State.faultPort (s : State) : Bool × Option (Nat × Option Nat) :=
  (s.halted, s.cause.map fun f => (f.code, f.recorded))

end Sys2Proof.Machine
end

