-- ==== Sys2Proof/Safety.lean ====
section
/-! DEFINITION. The terms claims are stated in: the invariant of the machine, the end of a run, and
what it means that an instruction leaves state alone. -/

namespace Sys2Proof.Machine

/-- PC never passes 0x10FE (40_step_cycle.md R110). -/
abbrev PcInRange (s : State) : Prop := s.pc.toNat ≤ 0x10FE

/-- Every live stack entry is an address `2nnn` can have pushed, at most 4096 (40_step_cycle.md
R110). Slots at SP and above are stale and free (10_state.md R27). -/
abbrev StackInRange (s : State) : Prop :=
  ∀ k : Fin 16, k.val < s.sp.val → (s.stack[k.val]).toNat ≤ 4096

/-- The machine's invariant: memory in canonical form, PC and the live stack entries in the ranges
of 40_step_cycle.md R110. -/
abbrev Inv (s : State) : Prop := s.mem.wf ∧ PcInRange s ∧ StackInRange s

/-- A safe state: no fatal condition has been met (10_state.md R31). -/
abbrev Running (s : State) : Prop := s.cause = none

/-- END_OF_RUN as the spec suggests it (70_reset_and_hazards.md R269, D27, log 18): not halted, PC at
a jump to itself, both timers zero. -/
abbrev EndOfRun (s : State) : Prop :=
  s.cause = none ∧ s.pc.toNat < 0x1000 ∧
    s.fetch = .ok (encode (.jp (s.pc.setWidth 12))) ∧ s.dt = 0 ∧ s.st = 0

/-- Every general register but those listed holds what it held. -/
def RegsKeptBut (ws : List Nibble) (s t : State) : Prop := ∀ y, y ∉ ws → t.getV y = s.getV y

/-- Every address reads as it read, and so does every address outside the space. -/
def MemoryKept (s t : State) : Prop := ∀ a : Nat, t.mem.read a = s.mem.read a

/-- Every address outside `[from, from + n)` reads as it read. -/
def MemoryKeptOutside (start n : Nat) (s t : State) : Prop :=
  ∀ a : Nat, a < start ∨ start + n ≤ a → t.mem.read a = s.mem.read a

/-- Everything but V, PC and memory holds what it held: I, DT, ST, the stack, SP, the framebuffer,
HALT and CAUSE, and the inputs. -/
def SpecialsKept (s t : State) : Prop :=
  t.i = s.i ∧ t.dt = s.dt ∧ t.st = s.st ∧ t.stack = s.stack ∧ t.sp = s.sp ∧ t.fb = s.fb ∧
    t.cause = s.cause ∧ t.key = s.key ∧ t.rnd = s.rnd ∧ t.draws = s.draws

/-- The frame of an instruction that writes general registers of the list only: all else holds what
it held, PC included. -/
def OnlyRegs (ws : List Nibble) (s t : State) : Prop :=
  RegsKeptBut ws s t ∧ MemoryKept s t ∧ SpecialsKept s t ∧ t.pc = s.pc

/-- The frame of an instruction that writes PC only. -/
def OnlyPc (s t : State) : Prop := RegsKeptBut [] s t ∧ MemoryKept s t ∧ SpecialsKept s t

/-- The frame of an instruction that writes I only. -/
def OnlyI (s t : State) : Prop :=
  RegsKeptBut [] s t ∧ MemoryKept s t ∧ SpecialsKept (s.setI t.i) t ∧ t.pc = s.pc

/-- The frame of a raise that has written nothing else: only HALT and CAUSE change, and CAUSE is the
condition (60_exceptions.md R238). -/
def OnlyRaised (f : Fault) (s t : State) : Prop :=
  t.cause = some f ∧ RegsKeptBut [] s t ∧ MemoryKept s t ∧ SpecialsKept (s.setCause t.cause) t ∧
    t.pc = s.pc

/-- The instruction names register `y` as its destination (through X, or as one of V0..VX of the
block load). -/
def namesDest : Instr → Nibble → Bool
  | .ldByte x _, y | .addByte x _, y | .ldReg x _, y | .or x _, y | .and x _, y | .xor x _, y => y == x
  | .addReg x _, y | .sub x _, y | .shr x, y | .subn x _, y | .shl x, y | .rnd x _, y => y == x
  | .ldVxDt x, y | .ldVxK x, y => y == x
  | .ldVxMem x, y => y.toNat ≤ x.toNat
  | .sys _, _ | .cls, _ | .ret, _ | .jp _, _ | .call _, _ | .seByte _ _, _ | .sneByte _ _, _ => false
  | .seReg _ _, _ | .sneReg _ _, _ | .ldI _, _ | .jpV0 _, _ | .drw _ _ _, _ | .skp _, _ => false
  | .sknp _, _ | .ldDtVx _, _ | .ldStVx _, _ | .addIVx _, _ | .ldFVx _, _ | .ldBVx _, _ => false
  | .ldMemVx _, _ => false

/-- The six instructions that write VF as a side effect (10_state.md R21). -/
def writesFlag : Instr → Bool
  | .addReg _ _ | .sub _ _ | .shr _ | .subn _ _ | .shl _ | .drw _ _ _ => true
  | .sys _ | .cls | .ret | .jp _ | .call _ | .seByte _ _ | .sneByte _ _ | .seReg _ _ => false
  | .sneReg _ _ | .ldByte _ _ | .addByte _ _ | .ldReg _ _ | .or _ _ | .and _ _ | .xor _ _ => false
  | .ldI _ | .jpV0 _ | .rnd _ _ | .skp _ | .sknp _ | .ldVxDt _ | .ldVxK _ | .ldDtVx _ => false
  | .ldStVx _ | .addIVx _ | .ldFVx _ | .ldBVx _ | .ldMemVx _ | .ldVxMem _ => false

/-- The instructions that write PC in phase 5 (41_control_flow.md R129). -/
def writesPc : Instr → Bool
  | .ret | .jp _ | .call _ | .seByte _ _ | .sneByte _ _ | .seReg _ _ | .sneReg _ _ => true
  | .jpV0 _ | .skp _ | .sknp _ | .ldVxK _ => true
  | .sys _ | .cls | .ldByte _ _ | .addByte _ _ | .ldReg _ _ | .or _ _ | .and _ _ | .xor _ _ => false
  | .addReg _ _ | .sub _ _ | .shr _ | .subn _ _ | .shl _ | .ldI _ | .rnd _ _ | .drw _ _ _ => false
  | .ldVxDt _ | .ldDtVx _ | .ldStVx _ | .addIVx _ | .ldFVx _ | .ldBVx _ | .ldMemVx _ => false
  | .ldVxMem _ => false

/-- Bit `j`, from the left, of sprite row `i`: row `i` is the byte at I + i, and column 0 its most
significant bit (44_display.md R192, R193). -/
def spriteBitAt (s : State) (i j : Nat) : Bool := (s.mem.peek (s.i.toNat + i)).getLsbD (7 - j)

/-- The five bytes of the glyph of digit `d`, at `d * 5` upward (20_memory.md R52). -/
def glyphBytes (s : State) (d : Nat) : List Byte :=
  (List.range 5).map fun k => s.mem.peek (d * 5 + k)

/-- `t` is `s`, or is reached from it by steps, and neither `s` nor any state on the way has fewer than
`d` entries on the call stack (what runs inside a subroutine called at depth `d - 1`). -/
inductive RunsWithin (d : Nat) : State → State → Prop where
  /-- No step taken. -/
  | start (s : State) : d ≤ s.sp.val → RunsWithin d s s
  /-- One more step. -/
  | more {s t u : State} : RunsWithin d s t → step t = .next u → d ≤ u.sp.val → RunsWithin d s u

/-- `n` executions of `2nnn` one after the other. -/
def callTimes (nnn : Addr) : Nat → State → Result
  | 0, s => .next s
  | n + 1, s =>
    match exec (.call nnn) s with
    | .next t => callTimes nnn n t
    | other => other

end Sys2Proof.Machine
end

