-- ==== Sys2Proof/Certificates/Slice0/Obligations.lean ====
section
/-! DEFINITION. What is claimed of the machine, from the numbered rules of spec/. Each docstring names
the rule; "log <n>" marks a clause that is the model's choice, and D<n> one that the spec marks as its
own decision (92_eei_decisions.md). -/

open Sys2Proof Sys2Proof.Machine

/-! ## Encoding -/

/-- 30_encoding.md R81, R84 (D1, D2; log 12): decoding the canonical word of a well-formed instruction
gives it back, every operand at every value; the same through bytes, with what follows left over. -/
def Obligations.DecodeOfEncodeIsTheInstruction : Prop :=
  ∀ (i : Instr) (rest : List Byte), i.wellFormed = true →
    decode (encode i) = .ok i ∧ decodeBytes (encodeBytes i ++ rest) = .ok (i, rest)

/-- 30_encoding.md R91, R94 (D1; log 12): a word that decodes has the fixed bits of its instruction's
row, and a machine call is neither `00E0` nor `00EE`. -/
def Obligations.DecodedWordMatchesItsTableRow : Prop :=
  ∀ (op : Word) (i : Instr), decode op = .ok i →
    op &&& rowMask i = rowMatch i ∧ i.wellFormed = true

/-- 30_encoding.md R90 (D1, D5; log 11, log 12): exactly the listed words of families 8, E and F decode
to nothing, and the rejection names the word. -/
def Obligations.InvalidOpcodesAreExactlyTheListedOnes : Prop :=
  ∀ op : Word,
    ((∃ e, decode op = .error e) ↔
      (op.toNat / 4096 = 0x8 ∧ op.toNat % 16 ∈ [0x8, 0x9, 0xA, 0xB, 0xC, 0xD, 0xF]) ∨
      (op.toNat / 4096 = 0xE ∧ op.toNat % 256 ∉ [0x9E, 0xA1]) ∨
      (op.toNat / 4096 = 0xF ∧
        op.toNat % 256 ∉ [0x07, 0x0A, 0x15, 0x18, 0x1E, 0x29, 0x33, 0x55, 0x65])) ∧
    ∀ e, decode op = .error e → e = .invalidOpcode op

/-- 30_encoding.md R85, R86, R87 (D3, D4; log 11): the ignored bits do not matter: N of families 5 and
9, Y of `8xy6` and `8xyE`, and every word of family 0 but two is a machine call. -/
def Obligations.IgnoredBitsDoNotMatter : Prop :=
  (∀ x y n : Nibble, decode (packXYN 0x5 x y n) = .ok (.seReg x y) ∧
    decode (packXYN 0x9 x y n) = .ok (.sneReg x y)) ∧
  (∀ x y : Nibble, decode (packXYN 0x8 x y 0x6) = .ok (.shr x) ∧
    decode (packXYN 0x8 x y 0xE) = .ok (.shl x)) ∧
  ∀ nnn : Addr, nnn ≠ 0x0E0 → nnn ≠ 0x0EE → decode (packNNN 0x0 nnn) = .ok (.sys nnn)

/-- 95_test_vectors.md E1 to E28 (D1, D2, D3, D4, D5; log 11, log 12): the words of the spec's own
decode table, one or more of every family 0 to F and one or more of every instruction, decode as it
says, and those it calls invalid decode to nothing. -/
def Obligations.WorkedWordsDecodeAsTheSpecSays : Prop :=
  (decode 0x1234 = .ok (.jp 0x234) ∧ decode 0x00E0 = .ok .cls ∧ decode 0x00EE = .ok .ret ∧
    decode 0x0000 = .ok (.sys 0x000) ∧ decode 0x00E1 = .ok (.sys 0x0E1) ∧
    decode 0x01E0 = .ok (.sys 0x1E0) ∧ decode 0x0FFF = .ok (.sys 0xFFF) ∧
    decode 0x00FF = .ok (.sys 0x0FF) ∧ decode 0x2ABC = .ok (.call 0xABC) ∧
    decode 0x3A7F = .ok (.seByte 0xA 0x7F) ∧ decode 0x4B00 = .ok (.sneByte 0xB 0x00) ∧
    decode 0x5AB0 = .ok (.seReg 0xA 0xB) ∧ decode 0x5AB7 = .ok (.seReg 0xA 0xB) ∧
    decode 0x9AB1 = .ok (.sneReg 0xA 0xB) ∧ decode 0x6C42 = .ok (.ldByte 0xC 0x42) ∧
    decode 0x7D01 = .ok (.addByte 0xD 0x01)) ∧
  (decode 0x8120 = .ok (.ldReg 0x1 0x2) ∧ decode 0x8121 = .ok (.or 0x1 0x2) ∧
    decode 0x8122 = .ok (.and 0x1 0x2) ∧ decode 0x8123 = .ok (.xor 0x1 0x2) ∧
    decode 0x8124 = .ok (.addReg 0x1 0x2) ∧ decode 0x8125 = .ok (.sub 0x1 0x2) ∧
    decode 0x8126 = .ok (.shr 0x1) ∧ decode 0x8127 = .ok (.subn 0x1 0x2) ∧
    decode 0x812E = .ok (.shl 0x1) ∧ decode 0xA123 = .ok (.ldI 0x123) ∧
    decode 0xB300 = .ok (.jpV0 0x300) ∧ decode 0xC30F = .ok (.rnd 0x3 0x0F) ∧
    decode 0xD015 = .ok (.drw 0x0 0x1 0x5)) ∧
  (decode 0xE59E = .ok (.skp 0x5) ∧ decode 0xE5A1 = .ok (.sknp 0x5) ∧
    decode 0xE09E = .ok (.skp 0x0) ∧ decode 0xEFA1 = .ok (.sknp 0xF) ∧
    decode 0xF007 = .ok (.ldVxDt 0x0) ∧ decode 0xF00A = .ok (.ldVxK 0x0) ∧
    decode 0xF015 = .ok (.ldDtVx 0x0) ∧ decode 0xF018 = .ok (.ldStVx 0x0) ∧
    decode 0xF01E = .ok (.addIVx 0x0) ∧ decode 0xF029 = .ok (.ldFVx 0x0) ∧
    decode 0xF033 = .ok (.ldBVx 0x0) ∧ decode 0xF055 = .ok (.ldMemVx 0x0) ∧
    decode 0xF065 = .ok (.ldVxMem 0x0) ∧ decode 0xFF65 = .ok (.ldVxMem 0xF)) ∧
  (decode 0x8128 = .error (.invalidOpcode 0x8128) ∧ decode 0x8129 = .error (.invalidOpcode 0x8129) ∧
    decode 0x812A = .error (.invalidOpcode 0x812A) ∧ decode 0x812B = .error (.invalidOpcode 0x812B) ∧
    decode 0x812C = .error (.invalidOpcode 0x812C) ∧ decode 0x812D = .error (.invalidOpcode 0x812D) ∧
    decode 0x812F = .error (.invalidOpcode 0x812F) ∧ decode 0x8008 = .error (.invalidOpcode 0x8008) ∧
    decode 0xE000 = .error (.invalidOpcode 0xE000) ∧ decode 0xE59F = .error (.invalidOpcode 0xE59F) ∧
    decode 0xE5A0 = .error (.invalidOpcode 0xE5A0) ∧ decode 0xE19D = .error (.invalidOpcode 0xE19D)) ∧
  (decode 0xF000 = .error (.invalidOpcode 0xF000) ∧ decode 0xF001 = .error (.invalidOpcode 0xF001) ∧
    decode 0xF00B = .error (.invalidOpcode 0xF00B) ∧ decode 0xF016 = .error (.invalidOpcode 0xF016) ∧
    decode 0xF075 = .error (.invalidOpcode 0xF075) ∧ decode 0xF085 = .error (.invalidOpcode 0xF085) ∧
    decode 0xF0FF = .error (.invalidOpcode 0xF0FF) ∧ decode 0xFFFF = .error (.invalidOpcode 0xFFFF) ∧
    decode 0xF130 = .error (.invalidOpcode 0xF130) ∧ decode 0xF175 = .error (.invalidOpcode 0xF175))

/-! ## Control flow -/

/-- 41_control_flow.md R120 (D3, log 11: which words are machine calls): a machine call changes
nothing. -/
def Obligations.MachineCallIsANoOp : Prop :=
  ∀ (nnn : Addr) (s : State), exec (.sys nnn) s = .next s

/-- 41_control_flow.md R121, 60_exceptions.md R234 (D8, log 14; log 1: the raise is a next state): RET
pops the top entry into PC and leaves the slot; on an empty stack it raises StackUnderflow and writes
nothing else. -/
def Obligations.ReturnPopsTheTopEntry : Prop :=
  ∀ s : State,
    (∀ h : s.sp.val ≠ 0, ∃ t, exec .ret s = .next t ∧
      t.pc = s.stack[s.sp.val - 1]'(by omega) ∧ t.sp.val = s.sp.val - 1 ∧ t.stack = s.stack ∧
      RegsKeptBut [] s t ∧ MemoryKept s t ∧ SpecialsKept (s.setStack s.stack t.sp) t) ∧
    (s.sp.val = 0 → ∃ t, exec .ret s = .next t ∧ OnlyRaised .stackUnderflow s t)

/-- 41_control_flow.md R122, its encoding with it: PC becomes NNN zero-extended, unchecked, and nothing
else is written. -/
def Obligations.JumpSetsPc : Prop :=
  ∀ (nnn : Addr) (s : State), decode (packNNN 0x1 nnn) = .ok (.jp nnn) ∧
    ∃ t, exec (.jp nnn) s = .next t ∧ t.pc.toNat = nnn.toNat ∧ OnlyPc s t

/-- 41_control_flow.md R123, 60_exceptions.md R233 (D8, log 14; log 1: the raise is a next state): CALL
pushes the advanced PC and jumps; with 16 entries it raises StackOverflow and writes nothing else. -/
def Obligations.CallPushesTheReturnAddress : Prop :=
  ∀ (nnn : Addr) (s : State),
    (∀ h : s.sp.val < 16, ∃ t, exec (.call nnn) s = .next t ∧
      t.stack[s.sp.val]'h = s.pc ∧
      (∀ k : Fin 16, k.val ≠ s.sp.val → t.stack[k.val] = s.stack[k.val]) ∧
      t.sp.val = s.sp.val + 1 ∧ t.pc.toNat = nnn.toNat ∧
      RegsKeptBut [] s t ∧ MemoryKept s t ∧ SpecialsKept (s.setStack t.stack t.sp) t) ∧
    (s.sp.val = 16 → ∃ t, exec (.call nnn) s = .next t ∧ OnlyRaised .stackOverflow s t)

/-- 41_control_flow.md R121, R123 (D8; log 14), for every matching pair: a CALL that finds room pushes
the address after itself; whatever runs next, nested calls and their returns included, as long as it
never leaves fewer entries than the CALL left, a RET at the depth the CALL left brings PC back to that
address and the depth to what it was before the CALL. The CALL and the RET themselves change no
register, memory, I or framebuffer. -/
def Obligations.ReturnUndoesCall : Prop :=
  ∀ (nnn : Addr) (s : State), s.sp.val < 16 →
    ∃ t, exec (.call nnn) s = .next t ∧ t.sp.val = s.sp.val + 1 ∧ t.cause = s.cause ∧ t.v = s.v ∧
      t.mem = s.mem ∧ t.i = s.i ∧ t.fb = s.fb ∧
      ∀ u, RunsWithin (s.sp.val + 1) t u → u.sp = t.sp →
        ∃ w, exec .ret u.dispatchState = .next w ∧ w.pc = s.pc ∧ w.sp = s.sp ∧ w.cause = u.cause ∧
          w.v = u.v ∧ w.mem = u.mem ∧ w.i = u.i ∧ w.fb = u.fb

/-- 41_control_flow.md R123 (D8, log 14; log 1: the raise is a next state): 16 nested calls succeed, the
17th raises StackOverflow. -/
def Obligations.SixteenNestedCallsSucceed : Prop :=
  ∀ (nnn : Addr) (s : State), s.sp.val = 0 → s.cause = none →
    (∃ t, callTimes nnn 16 s = .next t ∧ t.sp.val = 16 ∧ t.cause = none) ∧
    ∃ t, callTimes nnn 17 s = .next t ∧ t.sp.val = 16 ∧ t.cause = some .stackOverflow

/-- 41_control_flow.md R124 to R127: each skip compares two bytes and, when its condition holds,
advances PC by 2 more; it writes nothing else, VF included. -/
def Obligations.SkipsAdvancePcWhenTheConditionHolds : Prop :=
  ∀ (x y : Nibble) (kk : Byte) (s : State),
    (∃ t, exec (.seByte x kk) s = .next t ∧ OnlyPc s t ∧
      t.pc = if s.getV x = kk then s.pc + 2 else s.pc) ∧
    (∃ t, exec (.sneByte x kk) s = .next t ∧ OnlyPc s t ∧
      t.pc = if s.getV x ≠ kk then s.pc + 2 else s.pc) ∧
    (∃ t, exec (.seReg x y) s = .next t ∧ OnlyPc s t ∧
      t.pc = if s.getV x = s.getV y then s.pc + 2 else s.pc) ∧
    (∃ t, exec (.sneReg x y) s = .next t ∧ OnlyPc s t ∧
      t.pc = if s.getV x ≠ s.getV y then s.pc + 2 else s.pc)

/-- 41_control_flow.md R128: PC becomes NNN plus V[0]; the sum is exact, never reduced to 12 bits (D15,
log 23). -/
def Obligations.IndexedJumpAddsV0 : Prop :=
  ∀ (nnn : Addr) (s : State), ∃ t, exec (.jpV0 nnn) s = .next t ∧
    t.pc.toNat = nnn.toNat + (s.getV 0).toNat ∧ OnlyPc s t

/-! ## Registers and the ALU -/

/-- 42_alu.md R140, R142 (D1, log 12: the source does not describe the two, their meanings are general
knowledge): the immediate, or the other register, is copied; no flag. -/
def Obligations.RegisterLoadsCopyTheirOperand : Prop :=
  ∀ (x y : Nibble) (kk : Byte) (s : State),
    (∃ t, exec (.ldByte x kk) s = .next t ∧ t.getV x = kk ∧ OnlyRegs [x] s t) ∧
    (∃ t, exec (.ldReg x y) s = .next t ∧ t.getV x = s.getV y ∧ OnlyRegs [x] s t)

/-- 42_alu.md R141 (D1, log 12: the meaning is general knowledge; D12, log 10: VF is not written when
the sum overflows). -/
def Obligations.AddImmediateWrapsWithoutFlag : Prop :=
  ∀ (x : Nibble) (kk : Byte) (s : State), ∃ t, exec (.addByte x kk) s = .next t ∧
    (t.getV x).toNat = ((s.getV x).toNat + kk.toNat) % 256 ∧ OnlyRegs [x] s t

/-- 42_alu.md R143 to R145, bit by bit (D1, log 12: the meanings are general knowledge; D12, log 10: VF
is not written). -/
def Obligations.BitwiseOperationsActOnEveryBit : Prop :=
  ∀ (x y : Nibble) (s : State),
    (∃ t, exec (.or x y) s = .next t ∧ OnlyRegs [x] s t ∧ ∀ k < 8,
      (t.getV x).getLsbD k = ((s.getV x).getLsbD k || (s.getV y).getLsbD k)) ∧
    (∃ t, exec (.and x y) s = .next t ∧ OnlyRegs [x] s t ∧ ∀ k < 8,
      (t.getV x).getLsbD k = ((s.getV x).getLsbD k && (s.getV y).getLsbD k)) ∧
    (∃ t, exec (.xor x y) s = .next t ∧ OnlyRegs [x] s t ∧ ∀ k < 8,
      (t.getV x).getLsbD k = ((s.getV x).getLsbD k ^^ (s.getV y).getLsbD k))

/-- 42_alu.md R146: the result modulo 256, then the carry in VF; with X = 15 VF ends as the flag (D11,
log 10). -/
def Obligations.AddStoresSumThenCarry : Prop :=
  ∀ (x y : Nibble) (s : State), ∃ t, exec (.addReg x y) s = .next t ∧
    (x ≠ vf → (t.getV x).toNat = ((s.getV x).toNat + (s.getV y).toNat) % 256) ∧
    t.getV vf = (if (s.getV x).toNat + (s.getV y).toNat > 255 then 1 else 0) ∧
    OnlyRegs [x, vf] s t

/-- 42_alu.md R147: V[X] - V[Y] modulo 256, then not-borrow in VF (1 when equal, D13; with X = 15 VF
ends as the flag, D11; log 10). -/
def Obligations.SubStoresDifferenceThenNotBorrow : Prop :=
  ∀ (x y : Nibble) (s : State), ∃ t, exec (.sub x y) s = .next t ∧
    (x ≠ vf → ((t.getV x).toNat : Int) = ((s.getV x).toNat - (s.getV y).toNat : Int) % 256) ∧
    t.getV vf = (if (s.getV x).toNat ≥ (s.getV y).toNat then 1 else 0) ∧
    OnlyRegs [x, vf] s t

/-- 42_alu.md R149 (D1, log 12: that it is the reversed subtract is general knowledge): V[Y] - V[X]
modulo 256 into V[X], then not-borrow in VF (1 when equal, D13; with X = 15 VF ends as the flag, D11;
log 10). -/
def Obligations.SubnStoresReversedDifferenceThenNotBorrow : Prop :=
  ∀ (x y : Nibble) (s : State), ∃ t, exec (.subn x y) s = .next t ∧
    (x ≠ vf → ((t.getV x).toNat : Int) = ((s.getV y).toNat - (s.getV x).toNat : Int) % 256) ∧
    t.getV vf = (if (s.getV y).toNat ≥ (s.getV x).toNat then 1 else 0) ∧
    OnlyRegs [x, vf] s t

/-- 42_alu.md R148, R150: V[X] shifted by one, then the bit shifted out in VF (with X = 15 VF ends as
that bit, D11, log 10). -/
def Obligations.ShiftsStoreResultThenBitShiftedOut : Prop :=
  ∀ (x : Nibble) (s : State),
    (∃ t, exec (.shr x) s = .next t ∧
      (x ≠ vf → (t.getV x).toNat = (s.getV x).toNat / 2) ∧
      (t.getV vf).toNat = (s.getV x).toNat % 2 ∧ OnlyRegs [x, vf] s t) ∧
    (∃ t, exec (.shl x) s = .next t ∧
      (x ≠ vf → (t.getV x).toNat = (s.getV x).toNat * 2 % 256) ∧
      (t.getV vf).toNat = (s.getV x).toNat / 128 ∧ OnlyRegs [x, vf] s t)

/-- 42_alu.md R151 (D18, log 7): the byte on the `rnd` port, masked. Nothing is said of that byte, nor
of the one on the port afterwards (log 7). -/
def Obligations.RandomIsMaskedByTheImmediate : Prop :=
  ∀ (x : Nibble) (kk : Byte) (s : State), ∃ t, exec (.rnd x kk) s = .next t ∧
    t.getV x = s.rnd &&& kk ∧ t.getV x &&& ~~~kk = 0 ∧
    RegsKeptBut [x] s t ∧ MemoryKept s t ∧ t.pc = s.pc ∧
    SpecialsKept { s with rnd := t.rnd, draws := t.draws } t

/-- 10_state.md R20, R21, 42_alu.md R153 (D11, D12; log 10): over all instructions, a register that is
not the named destination keeps its value, but for VF under the six that write the flag. -/
def Obligations.OnlyNamedRegistersAndTheFlagChange : Prop :=
  ∀ (i : Instr) (s t : State) (y : Nibble), exec i s = .next t → namesDest i y = false →
    (y ≠ vf ∨ writesFlag i = false) → t.getV y = s.getV y

/-! ## Index and memory -/

/-- 43_index_memory.md R170, R171 (D1, log 12: the meanings are general knowledge; D12, log 10: no flag;
D14, log 23: the sum wraps at 65536). -/
def Obligations.IndexLoadsAndAddsWriteOnlyI : Prop :=
  ∀ (nnn : Addr) (x : Nibble) (s : State),
    (∃ t, exec (.ldI nnn) s = .next t ∧ t.i.toNat = nnn.toNat ∧ OnlyI s t) ∧
    (∃ t, exec (.addIVx x) s = .next t ∧
      t.i.toNat = (s.i.toNat + (s.getV x).toNat) % 65536 ∧ OnlyI s t)

/-- 20_memory.md R67: the glyph address of digit d, 0 to 15, is d * 5; `Fx29` writes it to I. -/
def Obligations.FontAddressIsFiveTimesTheDigit : Prop :=
  ∀ (x : Nibble) (s : State), (s.getV x).toNat ≤ 15 → ∃ t, exec (.ldFVx x) s = .next t ∧
    t.i.toNat = (s.getV x).toNat * 5 ∧ OnlyI s t

/-- The model's choice (D16; log 5) where 43_index_memory.md R172 leaves the digit above 15 open: the
instruction runs and writes I alone, with a free value of which nothing is said. -/
def Obligations.FontAddressAboveFifteenWritesOnlyI : Prop :=
  ∀ (x : Nibble) (s : State), 15 < (s.getV x).toNat → ∃ t, exec (.ldFVx x) s = .next t ∧ OnlyI s t

/-- 43_index_memory.md R173, 20_memory.md R68, 60_exceptions.md R239: the three decimal digits at I,
I+1, I+2; when they do not fit (D19, D20; log 1, log 8, log 21), AddressOutOfRange with the lowest
address that is 4096 or more, nothing said of MEM[I..4095], all else kept. -/
def Obligations.BcdStoreWritesThreeDigits : Prop :=
  ∀ (x : Nibble) (s : State), s.mem.wf →
    (s.i.toNat + 2 < 4096 → ∃ t, exec (.ldBVx x) s = .next t ∧
      (∃ h d u : Byte, t.mem.read s.i.toNat = .ok h ∧ t.mem.read (s.i.toNat + 1) = .ok d ∧
        t.mem.read (s.i.toNat + 2) = .ok u ∧ h.toNat = (s.getV x).toNat / 100 ∧
        d.toNat = (s.getV x).toNat / 10 % 10 ∧ u.toNat = (s.getV x).toNat % 10) ∧
      MemoryKeptOutside s.i.toNat 3 s t ∧ RegsKeptBut [] s t ∧ SpecialsKept s t ∧ t.pc = s.pc) ∧
    (4096 ≤ s.i.toNat + 2 → ∃ t, exec (.ldBVx x) s = .next t ∧
      t.cause = some (.addressOutOfRange (max s.i.toNat 4096)) ∧
      MemoryKeptOutside s.i.toNat (4096 - s.i.toNat) s t ∧ RegsKeptBut [] s t ∧ t.pc = s.pc ∧
      SpecialsKept { s with cause := t.cause, draws := t.draws } t)

/-- 43_index_memory.md R174, 60_exceptions.md R239: V[0..X] at I upward, I kept; when they do not fit,
as for the BCD store (D19, D20; log 1, log 8, log 21). -/
def Obligations.BlockStoreWritesV0ToVx : Prop :=
  ∀ (x : Nibble) (s : State), s.mem.wf →
    (s.i.toNat + x.toNat < 4096 → ∃ t, exec (.ldMemVx x) s = .next t ∧
      (∀ y : Nibble, y.toNat ≤ x.toNat → t.mem.read (s.i.toNat + y.toNat) = .ok (s.getV y)) ∧
      MemoryKeptOutside s.i.toNat (x.toNat + 1) s t ∧ RegsKeptBut [] s t ∧ SpecialsKept s t ∧
      t.pc = s.pc) ∧
    (4096 ≤ s.i.toNat + x.toNat → ∃ t, exec (.ldMemVx x) s = .next t ∧
      t.cause = some (.addressOutOfRange (max s.i.toNat 4096)) ∧
      MemoryKeptOutside s.i.toNat (4096 - s.i.toNat) s t ∧ RegsKeptBut [] s t ∧ t.pc = s.pc ∧
      SpecialsKept { s with cause := t.cause, draws := t.draws } t)

/-- 43_index_memory.md R175, 60_exceptions.md R239: V[0..X] from I upward, I kept; when they do not fit
(D19, D20; log 1, log 8, log 21), AddressOutOfRange, nothing said of V[0..X], all else kept. -/
def Obligations.BlockLoadReadsV0ToVx : Prop :=
  ∀ (x : Nibble) (s : State),
    (s.i.toNat + x.toNat < 4096 → ∃ t, exec (.ldVxMem x) s = .next t ∧
      (∀ y : Nibble, y.toNat ≤ x.toNat → s.mem.read (s.i.toNat + y.toNat) = .ok (t.getV y)) ∧
      (∀ y : Nibble, x.toNat < y.toNat → t.getV y = s.getV y) ∧
      MemoryKept s t ∧ SpecialsKept s t ∧ t.pc = s.pc) ∧
    (4096 ≤ s.i.toNat + x.toNat → ∃ t, exec (.ldVxMem x) s = .next t ∧
      t.cause = some (.addressOutOfRange (max s.i.toNat 4096)) ∧
      (∀ y : Nibble, x.toNat < y.toNat → t.getV y = s.getV y) ∧ MemoryKept s t ∧ t.pc = s.pc ∧
      SpecialsKept { s with cause := t.cause, draws := t.draws } t)

/-- 20_memory.md R66: no instruction but `Fx33` and `Fx55` writes memory. -/
def Obligations.OnlyTheTwoStoresWriteMemory : Prop :=
  ∀ (i : Instr) (s t : State), exec i s = .next t → (∀ x, i ≠ .ldBVx x) → (∀ x, i ≠ .ldMemVx x) →
    MemoryKept s t

/-- 20_memory.md R63, R56: two bytes stored where the next instruction lies are the next word fetched,
the one from V[0] the high byte. -/
def Obligations.StoreIsSeenByTheNextFetch : Prop :=
  ∀ (x : Nibble) (s : State), s.mem.wf → s.i = s.pc → 1 ≤ x.toNat → s.i.toNat + x.toNat < 4096 →
    ∃ t, exec (.ldMemVx x) s = .next t ∧
      ∃ op : Word, t.fetch = .ok op ∧ op.toNat = (s.getV 0).toNat * 256 + (s.getV 1).toNat

/-- 20_memory.md R53, R54: inside the space a read gives the byte there and a write changes that byte
alone; outside it both raise AddressOutOfRange with the address. That memory is a list in canonical form
(the premise), and that a write keeps that form, is the model's choice (log 3). -/
def Obligations.MemoryAccessIsCheckedAndExact : Prop :=
  ∀ (m : Memory) (a c : Nat) (b : Byte), m.wf →
    (4096 ≤ a → m.read a = .error (.addressOutOfRange a) ∧
      m.write a b = .error (.addressOutOfRange a)) ∧
    (a < 4096 → m.read a = .ok (m.peek a) ∧ ∃ m', m.write a b = .ok m' ∧ m'.wf ∧
      m'.read a = .ok b ∧ (c ≠ a → m'.read c = m.read c))

/-! ## Display -/

/-- 44_display.md R191, its encoding with it: every pixel off, and nothing else written. -/
def Obligations.ClearTurnsEveryPixelOff : Prop :=
  decode 0x00E0 = .ok .cls ∧ ∀ s : State, ∃ t, exec .cls s = .next t ∧
    (∀ px py : Nat, px < 64 → py < 32 → pixel t.fb px py = false) ∧
    RegsKeptBut [] s t ∧ MemoryKept s t ∧ SpecialsKept (s.setFb t.fb) t ∧ t.pc = s.pc

/-- 44_display.md R192, R193, R194 (D21, log 22: the operands): every bit of the sprite is XORed into
its wrapped pixel, every other pixel is kept, and VF is 1 when some on pixel met a 1 bit, else 0. -/
def Obligations.DrawXorsTheSpriteAndReportsCollision : Prop :=
  ∀ (x y n : Nibble) (s : State), s.i.toNat + n.toNat ≤ 4096 →
    ∃ t, exec (.drw x y n) s = .next t ∧
      (∀ i j : Nat, i < n.toNat → j < 8 →
        pixel t.fb (((s.getV x).toNat + j) % 64) (((s.getV y).toNat + i) % 32) =
          (pixel s.fb (((s.getV x).toNat + j) % 64) (((s.getV y).toNat + i) % 32) ^^
            spriteBitAt s i j)) ∧
      (∀ px py : Nat, px < 64 → py < 32 →
        (∀ i j : Nat, i < n.toNat → j < 8 →
          ¬ (px = ((s.getV x).toNat + j) % 64 ∧ py = ((s.getV y).toNat + i) % 32)) →
        pixel t.fb px py = pixel s.fb px py) ∧
      ((∃ i j : Nat, i < n.toNat ∧ j < 8 ∧ spriteBitAt s i j = true ∧
        pixel s.fb (((s.getV x).toNat + j) % 64) (((s.getV y).toNat + i) % 32) = true) →
        t.getV vf = 1) ∧
      ((¬ ∃ i j : Nat, i < n.toNat ∧ j < 8 ∧ spriteBitAt s i j = true ∧
        pixel s.fb (((s.getV x).toNat + j) % 64) (((s.getV y).toNat + i) % 32) = true) →
        t.getV vf = 0) ∧
      RegsKeptBut [vf] s t ∧ MemoryKept s t ∧ SpecialsKept (s.setFb t.fb) t ∧ t.pc = s.pc

/-- 20_memory.md R65, 44_display.md R193, 60_exceptions.md R239 (D19, D20; D21, log 22: the check also
when N = 0; log 1: the raise is a next state; log 21: the address recorded): a sprite that passes the
top of memory raises AddressOutOfRange before any pixel or VF is written. -/
def Obligations.DrawChecksItsBoundsFirst : Prop :=
  ∀ (x y n : Nibble) (s : State), 4096 < s.i.toNat + n.toNat →
    ∃ t, exec (.drw x y n) s = .next t ∧
      OnlyRaised (.addressOutOfRange (max s.i.toNat 4096)) s t

/-- 44_display.md R194 (D21, log 22: the operands): a sprite with a 1 bit drawn on a region that is all
off does not collide; drawn again at the same coordinates it collides and every pixel is as at the
start. -/
def Obligations.DrawingTwiceErasesAndCollides : Prop :=
  ∀ (x y n : Nibble) (s t : State), s.i.toNat + n.toNat ≤ 4096 →
    (∃ i j : Nat, i < n.toNat ∧ j < 8 ∧ spriteBitAt s i j = true) →
    (∀ i j : Nat, i < n.toNat → j < 8 →
      pixel s.fb (((s.getV x).toNat + j) % 64) (((s.getV y).toNat + i) % 32) = false) →
    exec (.drw x y n) s = .next t → t.getV x = s.getV x → t.getV y = s.getV y →
    t.getV vf = 0 ∧ ∃ u, exec (.drw x y n) t = .next u ∧ u.getV vf = 1 ∧
      ∀ px py : Nat, px < 64 → py < 32 → pixel u.fb px py = pixel s.fb px py

/-! ## Keypad and timers -/

/-- 45_keypad_timers.md R210, R211, for an index the snapshot has (0..15). -/
def Obligations.KeySkipsReadTheSnapshot : Prop :=
  ∀ (x : Nibble) (s : State), (s.getV x).toNat ≤ 15 →
    (∃ t, exec (.skp x) s = .next t ∧ OnlyPc s t ∧
      t.pc = if s.key.getLsbD (s.getV x).toNat then s.pc + 2 else s.pc) ∧
    (∃ t, exec (.sknp x) s = .next t ∧ OnlyPc s t ∧
      t.pc = if s.key.getLsbD (s.getV x).toNat then s.pc else s.pc + 2)

/-- The model's choice (D17; log 6) where 45_keypad_timers.md R210, R211 leave an index above 15 open:
both skips run, write PC alone, and exactly one of them skips. -/
def Obligations.KeySkipsAboveFifteenAreComplementary : Prop :=
  ∀ (x : Nibble) (s : State), 15 < (s.getV x).toNat →
    ∃ t u, exec (.skp x) s = .next t ∧ exec (.sknp x) s = .next u ∧ OnlyPc s t ∧ OnlyPc s u ∧
      ((t.pc = s.pc + 2 ∧ u.pc = s.pc) ∨ (t.pc = s.pc ∧ u.pc = s.pc + 2))

/-- 45_keypad_timers.md R212 (D28, log 24: the level of the snapshot): the lowest pressed key's index
into V[X]; with no key pressed PC goes back by 2 and nothing else changes. -/
def Obligations.WaitForKeyTakesTheLowestOrReissues : Prop :=
  ∀ (x : Nibble) (s : State),
    (∀ k : Nat, k < 16 → s.key.getLsbD k = true → (∀ j < k, s.key.getLsbD j = false) →
      ∃ t, exec (.ldVxK x) s = .next t ∧ (t.getV x).toNat = k ∧ OnlyRegs [x] s t) ∧
    ((∀ k < 16, s.key.getLsbD k = false) →
      ∃ t, exec (.ldVxK x) s = .next t ∧ t.pc = s.pc - 2 ∧ OnlyPc s t)

/-- 45_keypad_timers.md R213, R214, R215 (D1, log 12: the source does not describe the three, their
meanings are general knowledge): DT into V[X], V[X] into DT, V[X] into ST. -/
def Obligations.TimerMovesCopyBothWays : Prop :=
  ∀ (x : Nibble) (s : State),
    (∃ t, exec (.ldVxDt x) s = .next t ∧ t.getV x = s.dt ∧ OnlyRegs [x] s t) ∧
    (∃ t, exec (.ldDtVx x) s = .next t ∧ t.dt = s.getV x ∧ RegsKeptBut [] s t ∧ MemoryKept s t ∧
      SpecialsKept (s.setDt t.dt) t ∧ t.pc = s.pc) ∧
    (∃ t, exec (.ldStVx x) s = .next t ∧ t.st = s.getV x ∧ RegsKeptBut [] s t ∧ MemoryKept s t ∧
      SpecialsKept (s.setSt t.st) t ∧ t.pc = s.pc)

/-- 40_step_cycle.md R109 (D1, log 12: the two timer moves; D6, log 13: the step is the tick): DT set in
one step and read in the next reads one less, floored at 0. -/
def Obligations.TimerReadInTheNextStepIsOneLess : Prop :=
  ∀ (x y : Nibble) (s : State), ∃ t u, exec (.ldDtVx x) s = .next t ∧
    exec (.ldVxDt y) t.dispatchState = .next u ∧ (u.getV y).toNat = (s.getV x).toNat - 1

/-! ## The step -/

/-- 40_step_cycle.md R100, R101, R103 to R105 (D6, D7, log 13: the timers tick in this step whatever it
runs, a stalled key wait included): a running engine whose fetched bytes decode runs that instruction on
the state with PC advanced by 2 and both timers one down, floored at zero. -/
def Obligations.StepRunsTheDecodedInstruction : Prop :=
  ∀ (s : State) (i : Instr), s.cause = none → s.pc.toNat < 4095 →
    decode (wordOfBytes (s.mem.peek s.pc.toNat) (s.mem.peek (s.pc.toNat + 1))) = .ok i →
    step s = exec i { s with
      pc := s.pc + 2
      dt := if s.dt = 0 then 0 else s.dt - 1
      st := if s.st = 0 then 0 else s.st - 1 }

/-- 40_step_cycle.md R101, 60_exceptions.md R239 (D19; log 1: the raise is the next state; log 21: the
address recorded): a fetch at 4095 or above raises AddressOutOfRange with the first bad address and
changes nothing else. -/
def Obligations.FetchBeyondMemoryHalts : Prop :=
  ∀ s : State, s.cause = none → 4095 ≤ s.pc.toNat →
    ∃ t, step s = .next t ∧ OnlyRaised (.addressOutOfRange (max s.pc.toNat 4096)) s t

/-- 60_exceptions.md R232, 40_step_cycle.md R102 (D19; log 1: the raise is the next state): a word that
does not decode raises InvalidOpcode with the word; PC, the timers and all else are as before. -/
def Obligations.InvalidOpcodeHaltsBeforeTheAdvance : Prop :=
  ∀ (s : State) (op : Word) (e : Rejection), s.cause = none → s.fetch = .ok op →
    decode op = .error e → ∃ t, step s = .next t ∧ OnlyRaised (.invalidOpcode op) s t

/-- 40_step_cycle.md R107 (D19; log 1): a step asked of a halted engine has no next state and answers
its fault again. -/
def Obligations.HaltedEngineRepeatsItsFault : Prop :=
  ∀ (s : State) (f : Fault), s.cause = some f → step s = .fault f

/-- 40_step_cycle.md R106: no instruction blocks inside a dispatch. The rest is the model's choice: a
raise is a next state with HALT set (log 1), and `Fx29` with a digit above 15 (log 5) and `Ex9E` and
`ExA1` with an index above 15 (log 6), which the spec's defaults (D16, D17) refuse, run on a free value;
so every instruction, and every step of a running engine, gives a next state. -/
def Obligations.EveryRunningStepCompletes : Prop :=
  (∀ (i : Instr) (s : State), ∃ t, exec i s = .next t) ∧
    ∀ s : State, s.cause = none → ∃ t, step s = .next t

/-- 40_step_cycle.md R104 (D6, D7; log 13): both timers go down by one, floored at zero, in every step
that dispatches, whatever the instruction and whether or not it raises, but for the timer that
instruction writes. That such a step gives a next state is the model's choice where it raises (log 1)
and where the spec's defaults refuse: `Fx29` above 15 (log 5), `Ex9E` and `ExA1` above 15 (log 6). -/
def Obligations.TimersTickInEveryDispatchingStep : Prop :=
  ∀ (s : State) (op : Word) (i : Instr), s.cause = none → s.fetch = .ok op → decode op = .ok i →
    ∃ t, step s = .next t ∧
      ((∀ x, i ≠ .ldDtVx x) → t.dt.toNat = s.dt.toNat - 1) ∧
      ((∀ x, i ≠ .ldStVx x) → t.st.toNat = s.st.toNat - 1)

/-- 41_control_flow.md R129: an instruction that is none of the listed ones leaves PC at the address
after itself. -/
def Obligations.OnlyTheListedInstructionsWritePc : Prop :=
  ∀ (i : Instr) (s t : State), exec i s = .next t → writesPc i = false → t.pc = s.pc

/-- 10_state.md R22, R24 to R27, R29, R30: each special register is written only by the instructions its
rule names, and the key snapshot by none (log 5: `Fx29` with a digit above 15 too writes I alone). -/
def Obligations.SpecialRegistersHaveTheirWriters : Prop :=
  ∀ (i : Instr) (s t : State), exec i s = .next t →
    ((∀ n, i ≠ .ldI n) → (∀ x, i ≠ .addIVx x) → (∀ x, i ≠ .ldFVx x) → t.i = s.i) ∧
    ((∀ x, i ≠ .ldDtVx x) → t.dt = s.dt) ∧ ((∀ x, i ≠ .ldStVx x) → t.st = s.st) ∧
    ((∀ n, i ≠ .call n) → t.stack = s.stack) ∧
    ((∀ n, i ≠ .call n) → i ≠ .ret → t.sp = s.sp) ∧
    (i ≠ .cls → (∀ x y n, i ≠ .drw x y n) → t.fb = s.fb) ∧ t.key = s.key

/-- 60_exceptions.md R237 (log 1: the raise is a next state; log 5, log 6: the forms left open above 15
raise none): each instruction raises one kind of fatal condition only, and only the six listed raise
any. -/
def Obligations.EachInstructionRaisesOneKind : Prop :=
  ∀ (i : Instr) (s t : State), exec i s = .next t →
    t.cause = s.cause ∨
    (i = .ret ∧ t.cause = some .stackUnderflow) ∨
    ((∃ n, i = .call n) ∧ t.cause = some .stackOverflow) ∨
    (((∃ x y n, i = .drw x y n) ∨ (∃ x, i = .ldBVx x) ∨ (∃ x, i = .ldMemVx x) ∨
        ∃ x, i = .ldVxMem x) ∧
      ∃ a, 4096 ≤ a ∧ t.cause = some (.addressOutOfRange a))

/-- 60_exceptions.md R235: no execution raises RegisterOutOfRange. -/
def Obligations.RegisterOutOfRangeIsNeverRaised : Prop :=
  ∀ (s t : State) (k : Nat), step s = .next t → t.cause ≠ some (.registerOutOfRange k)

/-! ## Invariants, reset, the host -/

/-- 40_step_cycle.md R110 and the canonical form of memory (log 3; D15, log 23: the reach of `Bnnn`; log
1: a raising step is a step to a next state): PC at most 0x10FE, every live return address at most 4096,
memory canonical: every step keeps them. -/
def Obligations.EveryStepKeepsTheInvariant : Prop :=
  ∀ s t : State, Inv s → step s = .next t → Inv t

/-- 70_reset_and_hazards.md R266 (log 3, log 16, log 26): every move of the host keeps the invariant
too. -/
def Obligations.EveryHostMoveKeepsTheInvariant : Prop :=
  ∀ (m : HostMove) (s t : State), Inv s → hostMove m s = .next t → Inv t

/-- 10_state.md R35, 40_step_cycle.md R110: the invariant holds after reset (log 3: the memory lists
nothing; D9, log 2: the stack is empty). -/
def Obligations.InvariantHoldsAfterReset : Prop := Inv State.reset

/-- 10_state.md R35, 20_memory.md R52: what reset leaves. PC is stated by the source; the zeros are
the spec's decision D9 (log 2), and the 80 font bytes, all written out, its D10 (log 4). Nothing is
said of the inputs KEY and RND. -/
def Obligations.ResetLeavesTheTableOfValues : Prop :=
  State.reset.pc = 0x200 ∧ (∀ x : Nibble, State.reset.getV x = 0) ∧ State.reset.i = 0 ∧
  State.reset.dt = 0 ∧ State.reset.st = 0 ∧ State.reset.sp.val = 0 ∧
  (∀ k : Fin 16, State.reset.stack[k.val] = 0) ∧ State.reset.cause = none ∧
  (∀ px py : Nat, px < 64 → py < 32 → pixel State.reset.fb px py = false) ∧
  (∀ a : Nat, 0x50 ≤ a → a < 4096 → State.reset.mem.read a = .ok 0) ∧
  glyphBytes State.reset 0x0 = [0xF0, 0x90, 0x90, 0x90, 0xF0] ∧
  glyphBytes State.reset 0x1 = [0x20, 0x60, 0x20, 0x20, 0x70] ∧
  glyphBytes State.reset 0x2 = [0xF0, 0x10, 0xF0, 0x80, 0xF0] ∧
  glyphBytes State.reset 0x3 = [0xF0, 0x10, 0xF0, 0x10, 0xF0] ∧
  glyphBytes State.reset 0x4 = [0x90, 0x90, 0xF0, 0x10, 0x10] ∧
  glyphBytes State.reset 0x5 = [0xF0, 0x80, 0xF0, 0x10, 0xF0] ∧
  glyphBytes State.reset 0x6 = [0xF0, 0x80, 0xF0, 0x90, 0xF0] ∧
  glyphBytes State.reset 0x7 = [0xF0, 0x10, 0x20, 0x40, 0x40] ∧
  glyphBytes State.reset 0x8 = [0xF0, 0x90, 0xF0, 0x90, 0xF0] ∧
  glyphBytes State.reset 0x9 = [0xF0, 0x90, 0xF0, 0x10, 0xF0] ∧
  glyphBytes State.reset 0xA = [0xF0, 0x90, 0xF0, 0x90, 0x90] ∧
  glyphBytes State.reset 0xB = [0xE0, 0x90, 0xE0, 0x90, 0xE0] ∧
  glyphBytes State.reset 0xC = [0xF0, 0x80, 0x80, 0x80, 0xF0] ∧
  glyphBytes State.reset 0xD = [0xE0, 0x90, 0x90, 0x90, 0xE0] ∧
  glyphBytes State.reset 0xE = [0xF0, 0x80, 0xF0, 0x80, 0xF0] ∧
  glyphBytes State.reset 0xF = [0xF0, 0x80, 0xF0, 0x80, 0x80]

/-- 70_reset_and_hazards.md R260, R261 (D9, log 2: the zeros): the host's reset puts all state but the
inputs to its reset value, from any state, the halted one included; a loaded program is gone. That it
keeps the key snapshot is R260's (log 9); that it keeps the byte on the `rnd` port is the model's choice
(log 29). -/
def Obligations.HostResetClearsAllButTheInputs : Prop :=
  ∀ s : State, ∃ t, hostMove .reset s = .next t ∧ t.pc = 0x200 ∧ (∀ x : Nibble, t.getV x = 0) ∧
    t.i = 0 ∧ t.dt = 0 ∧ t.st = 0 ∧ t.sp.val = 0 ∧ t.cause = none ∧ t.mem = State.reset.mem ∧
    t.fb = State.reset.fb ∧ t.stack = State.reset.stack ∧ t.key = s.key ∧ t.rnd = s.rnd

/-- 70_reset_and_hazards.md R262 (D24; log 16): a program of at most 3584 bytes is stored from 0x200 up
and nothing else changes; a longer one is refused whole. -/
def Obligations.LoadStoresTheProgramOrIsRefused : Prop :=
  ∀ (bytes : List Byte) (s : State), s.mem.wf →
    (bytes.length ≤ 3584 → ∃ t, hostMove (.load bytes) s = .next t ∧
      (∀ k (h : k < bytes.length), t.mem.read (0x200 + k) = .ok bytes[k]) ∧
      MemoryKeptOutside 0x200 bytes.length s t ∧ RegsKeptBut [] s t ∧ SpecialsKept s t ∧
      t.pc = s.pc) ∧
    (3584 < bytes.length → hostMove (.load bytes) s = .fault (.addressOutOfRange 4096))

/-- 70_reset_and_hazards.md R264 (D25; log 26): one key of the snapshot set, the others and all else
kept. -/
def Obligations.SetKeyChangesOneKey : Prop :=
  ∀ (k : Nibble) (p : Bool) (s : State), ∃ t, hostMove (.setKey k p) s = .next t ∧
    t.key.getLsbD k.toNat = p ∧
    (∀ j : Nat, j ≠ k.toNat → t.key.getLsbD j = s.key.getLsbD j) ∧
    RegsKeptBut [] s t ∧ MemoryKept s t ∧ SpecialsKept (s.setKeys t.key) t ∧ t.pc = s.pc

/-- 70_reset_and_hazards.md R269 (D27; log 18): at the end of a run no step changes any state. -/
def Obligations.EndOfRunIsAFixedPoint : Prop :=
  ∀ s : State, EndOfRun s → step s = .next s

/-- 45_keypad_timers.md R212 (D7, log 13): a step stalled on a key wait changes nothing but the timers;
with both at zero it changes nothing. -/
def Obligations.StalledKeyWaitChangesOnlyTheTimers : Prop :=
  ∀ (s : State) (op : Word) (x : Nibble), s.cause = none → s.fetch = .ok op →
    decode op = .ok (.ldVxK x) → s.key = 0 →
    ∃ t, step s = .next t ∧ t = { s with dt := t.dt, st := t.st } ∧
      t.dt.toNat = s.dt.toNat - 1 ∧ t.st.toNat = s.st.toNat - 1 ∧
      (s.dt = 0 → s.st = 0 → t = s)

/-- 10_state.md R34, 60_exceptions.md R230, 70_reset_and_hazards.md R266 (D19, D25, D26; log 26, log 28):
what crosses the boundary. `fault` gives HALT, and the code and recorded value of each of the five
conditions; `fb` gives pixel (x, y) at bit y * 64 + x; `st` gives ST, and `snd` whether it is not zero;
a byte the host supplies on `rnd` is the one the next `Cxkk` masks, and supplying it changes nothing
else (log 7: RND is a field of State). -/
def Obligations.PortsCarryTheirValues : Prop :=
  ∀ s : State,
    (s.cause = none → s.faultPort = (false, none)) ∧
    (∀ op, s.cause = some (.invalidOpcode op) → s.faultPort = (true, some (1, some op.toNat))) ∧
    (∀ k, s.cause = some (.registerOutOfRange k) → s.faultPort = (true, some (2, some k))) ∧
    (s.cause = some .stackOverflow → s.faultPort = (true, some (3, none))) ∧
    (s.cause = some .stackUnderflow → s.faultPort = (true, some (4, none))) ∧
    (∀ a, s.cause = some (.addressOutOfRange a) → s.faultPort = (true, some (5, some a))) ∧
    (∀ px py : Nat, px < 64 → py < 32 → s.fbPort.getLsbD (py * 64 + px) = pixel s.fb px py) ∧
    s.stPort = s.st ∧ (s.snd = true ↔ s.st ≠ 0) ∧
    ∀ (b : Byte) (x : Nibble) (kk : Byte), ∃ t, hostMove (.supplyRnd b) s = .next t ∧ t.rnd = b ∧
      RegsKeptBut [] s t ∧ MemoryKept s t ∧ SpecialsKept (s.setRnd t.rnd) t ∧ t.pc = s.pc ∧
      ∃ u, exec (.rnd x kk) t = .next u ∧ u.getV x = b &&& kk
end

