-- ==== Sys2Proof/Laws/Decode.lean ====
section
/-! SUPPORT. The fields of a packed word are the ones packed, and a word is its two bytes. -/

namespace Sys2Proof

section Fields

variable (f x y n : Nibble) (kk : Byte) (nnn : Addr)

@[simp] theorem opF_packXKK : opF (packXKK f x kk) = f := by
  ext i hi; interval_cases i <;> simp [opF, packXKK]

@[simp] theorem opX_packXKK : opX (packXKK f x kk) = x := by
  ext i hi; interval_cases i <;> simp [opX, packXKK]

@[simp] theorem opKK_packXKK : opKK (packXKK f x kk) = kk := by
  ext i hi; interval_cases i <;> simp [opKK, packXKK]

@[simp] theorem opF_packNNN : opF (packNNN f nnn) = f := by
  ext i hi; interval_cases i <;> simp [opF, packNNN]

@[simp] theorem opNNN_packNNN : opNNN (packNNN f nnn) = nnn := by
  ext i hi; interval_cases i <;> simp [opNNN, packNNN]

@[simp] theorem opF_packXYN : opF (packXYN f x y n) = f := by
  ext i hi; interval_cases i <;> simp [opF, packXYN]

@[simp] theorem opX_packXYN : opX (packXYN f x y n) = x := by
  ext i hi; interval_cases i <;> simp [opX, packXYN]

@[simp] theorem opY_packXYN : opY (packXYN f x y n) = y := by
  ext i hi; interval_cases i <;> simp [opY, packXYN]

@[simp] theorem opN_packXYN : opN (packXYN f x y n) = n := by
  ext i hi; interval_cases i <;> simp [opN, packXYN]

end Fields

/-- A word is its two bytes, the high one first (20_memory.md R55). -/
@[simp] theorem wordOfBytes_hi_lo (w : Word) : wordOfBytes (hiByte w) (loByte w) = w := by
  ext i hi; interval_cases i <;> simp [wordOfBytes, hiByte, loByte]

/-- The number a word is: the high byte times 256 plus the low byte (00_scope.md R8). -/
theorem wordOfBytes_toNat (hi lo : Byte) :
    (wordOfBytes hi lo).toNat = hi.toNat * 256 + lo.toNat := by
  have h1 := hi.isLt
  have h2 := lo.isLt
  have key := Nat.shiftLeft_add_eq_or_of_lt (i := 8) h2 hi.toNat
  simp only [Nat.shiftLeft_eq] at key
  simp only [wordOfBytes, BitVec.toNat_or, BitVec.toNat_shiftLeft, BitVec.toNat_setWidth,
    Nat.shiftLeft_eq]
  rw [Nat.mod_eq_of_lt (show hi.toNat < 2 ^ 16 by omega),
    Nat.mod_eq_of_lt (show lo.toNat < 2 ^ 16 by omega),
    Nat.mod_eq_of_lt (show hi.toNat * 2 ^ 8 < 2 ^ 16 by omega), ← key]

/-- The family field as a number. -/
theorem opF_toNat (op : Word) : (opF op).toNat = op.toNat / 4096 := by
  have := op.isLt
  simp [opF, BitVec.extractLsb'_toNat, Nat.shiftRight_eq_div_pow]; omega

/-- The low nibble as a number. -/
theorem opN_toNat (op : Word) : (opN op).toNat = op.toNat % 16 := by
  simp [opN, BitVec.extractLsb'_toNat]

/-- The low byte as a number. -/
theorem opKK_toNat (op : Word) : (opKK op).toNat = op.toNat % 256 := by
  simp [opKK, BitVec.extractLsb'_toNat]

/-- A word is its family and its NNN. -/
theorem packNNN_fields (w : Word) : packNNN (opF w) (opNNN w) = w := by
  ext i hi; interval_cases i <;> simp [packNNN, opF, opNNN]

/-- A word is its family, X and KK. -/
theorem packXKK_fields (w : Word) : packXKK (opF w) (opX w) (opKK w) = w := by
  ext i hi; interval_cases i <;> simp [packXKK, opF, opX, opKK]

/-- A word is its four nibbles. -/
theorem packXYN_fields (w : Word) : packXYN (opF w) (opX w) (opY w) (opN w) = w := by
  ext i hi; interval_cases i <;> simp [packXYN, opF, opX, opY, opN]

end Sys2Proof
end

