-- ==== Sys2Proof/Laws/Memory.lean ====
section
/-! SUPPORT. Memory: a read after a write, every operation keeps the canonical form, and memories in
canonical form that read alike are equal. -/

namespace Sys2Proof.Machine

@[simp] theorem Memory.peek_nil (a : Nat) : Memory.peek [] a = Memory.resetByte a := rfl

theorem Memory.peek_insert (m : Memory) (a : Nat) (b : Byte) (c : Nat) :
    (m.insert a b).peek c = if c = a then b else m.peek c := by
  induction m with
  | nil => simp [Memory.insert, Memory.peek]
  | cons hd tl ih =>
    obtain ⟨k, d⟩ := hd
    simp only [Memory.insert]
    split
    · simp [Memory.peek]
    · split
      · subst_vars; simp only [Memory.peek]; split <;> rfl
      · simp only [Memory.peek, ih]
        split <;> split <;> simp_all

/-- An address below every listed one reads as the reset contents. -/
theorem Memory.peek_of_below (m : Memory) (a : Nat) (h : ∀ c ∈ m, a < c.1) :
    m.peek a = Memory.resetByte a := by
  induction m with
  | nil => rfl
  | cons hd tl ih =>
    simp only [List.mem_cons, forall_eq_or_imp] at h
    simp [Memory.peek, Nat.ne_of_lt h.1, ih h.2]

theorem Memory.peek_erase (m : Memory) (a : Nat) (h : m.Pairwise (fun c d => c.1 < d.1)) (c : Nat) :
    (m.erase a).peek c = if c = a then Memory.resetByte a else m.peek c := by
  induction m with
  | nil => simp only [Memory.erase, Memory.peek_nil]; split <;> simp_all
  | cons hd tl ih =>
    obtain ⟨k, d⟩ := hd
    rw [List.pairwise_cons] at h
    simp only [Memory.erase]
    split
    · subst_vars
      simp only [Memory.peek]
      split
      · subst_vars; exact Memory.peek_of_below tl _ h.1
      · rfl
    · simp only [Memory.peek, ih h.2]
      split <;> split <;> simp_all

theorem Memory.mem_insert (m : Memory) (a : Nat) (b : Byte) (c : Host.Cell)
    (h : c ∈ m.insert a b) : c = (a, b) ∨ c ∈ m := by
  induction m with
  | nil => simpa [Memory.insert] using h
  | cons hd tl ih =>
    obtain ⟨k, d⟩ := hd
    simp only [Memory.insert] at h
    split at h
    · simpa using h
    · split at h <;> simp only [List.mem_cons] at h ⊢
      · tauto
      · rcases h with h | h
        · tauto
        · have := ih h; tauto

theorem Memory.mem_erase (m : Memory) (a : Nat) (c : Host.Cell) (h : c ∈ m.erase a) : c ∈ m := by
  induction m with
  | nil => simp [Memory.erase] at h
  | cons hd tl ih =>
    simp only [Memory.erase] at h
    split at h
    · exact List.mem_cons_of_mem _ h
    · simp only [List.mem_cons] at h ⊢
      exact h.imp id ih

theorem Memory.pairwise_insert (m : Memory) (a : Nat) (b : Byte)
    (h : m.Pairwise (fun c d => c.1 < d.1)) :
    (m.insert a b).Pairwise (fun c d => c.1 < d.1) := by
  induction m with
  | nil => simp [Memory.insert]
  | cons hd tl ih =>
    obtain ⟨k, d⟩ := hd
    have hc := List.pairwise_cons.1 h
    simp only [Memory.insert]
    split
    · refine List.pairwise_cons.2 ⟨?_, h⟩
      intro c hm
      rcases List.mem_cons.1 hm with rfl | hm
      · assumption
      · have := hc.1 c hm; simp only at this ⊢; omega
    · split
      · subst_vars; exact List.pairwise_cons.2 ⟨hc.1, hc.2⟩
      · refine List.pairwise_cons.2 ⟨?_, ih hc.2⟩
        intro c hm
        rcases Memory.mem_insert _ _ _ _ hm with rfl | hm
        · simp only; omega
        · exact hc.1 c hm

theorem Memory.pairwise_erase (m : Memory) (a : Nat) (h : m.Pairwise (fun c d => c.1 < d.1)) :
    (m.erase a).Pairwise (fun c d => c.1 < d.1) := by
  induction m with
  | nil => simp [Memory.erase]
  | cons hd tl ih =>
    rw [List.pairwise_cons] at h
    simp only [Memory.erase]
    split
    · exact h.2
    · exact List.pairwise_cons.2 ⟨fun c hm => h.1 c (Memory.mem_erase _ _ _ hm), ih h.2⟩

/-- A write keeps the canonical form. -/
theorem Memory.wf_poke {m : Memory} (h : m.wf) (a : Nat) (b : Byte) : (m.poke a b).wf := by
  unfold Memory.poke
  split
  · split
    · exact ⟨Memory.pairwise_erase _ _ h.1, fun c hc => h.2 c (Memory.mem_erase _ _ _ hc)⟩
    · refine ⟨Memory.pairwise_insert _ _ _ h.1, fun c hc => ?_⟩
      rcases Memory.mem_insert _ _ _ _ hc with rfl | hc
      · exact ⟨by assumption, by assumption⟩
      · exact h.2 c hc
  · exact h

/-- A read after a write: the byte written at the address written, elsewhere what was there; a write
outside the space changes nothing (20_memory.md R53, R54). -/
theorem Memory.peek_poke {m : Memory} (h : m.wf) (a : Nat) (b : Byte) (c : Nat) :
    (m.poke a b).peek c = if c = a ∧ a < 4096 then b else m.peek c := by
  unfold Memory.poke
  by_cases ha : a < 4096
  · simp only [Config.memSize, ha, if_true, and_true]
    split
    · subst_vars; exact Memory.peek_erase _ _ h.1 c
    · exact Memory.peek_insert _ _ _ c
  · simp [ha]

theorem Memory.wf_pokeAll {m : Memory} (h : m.wf) (a : Nat) (bs : List Byte) :
    (m.pokeAll a bs).wf := by
  induction bs generalizing m a with
  | nil => exact h
  | cons b tl ih => exact ih (Memory.wf_poke h a b) (a + 1)

theorem Memory.wf_forget {m : Memory} (h : m.wf) (a n d : Nat) : (m.forget a n d).wf := by
  induction n generalizing m a with
  | zero => exact h
  | succ n ih => exact ih (Memory.wf_poke h a _) (a + 1)

/-- What a block store leaves at each address, when it fits (20_memory.md R56). -/
theorem Memory.peek_pokeAll {m : Memory} (h : m.wf) (a : Nat) (bs : List Byte)
    (fits : a + bs.length ≤ 4096) (c : Nat) :
    (m.pokeAll a bs).peek c = if a ≤ c then (bs[c - a]?).getD (m.peek c) else m.peek c := by
  induction bs generalizing m a with
  | nil => simp [Memory.pokeAll]
  | cons b tl ih =>
    simp only [List.length_cons] at fits
    have ha : a < 4096 := by omega
    simp only [Memory.pokeAll]
    rw [ih (Memory.wf_poke h a b) (a + 1) (by omega), Memory.peek_poke h]
    by_cases hc : c = a
    · subst hc; simp [ha]
    · by_cases hlt : a ≤ c
      · have : c - a = (c - (a + 1)) + 1 := by omega
        simp [hc, hlt, this, show a + 1 ≤ c by omega]
      · simp [hc, hlt, show ¬ a + 1 ≤ c by omega]

/-- What a faulting block store leaves at each address (60_exceptions.md R239): free values in the
range, and what was there elsewhere. -/
theorem Memory.peek_forget {m : Memory} (h : m.wf) (a n d : Nat) (c : Nat) :
    (m.forget a n d).peek c =
      if a ≤ c ∧ c < a + n ∧ c < 4096 then Config.faultMemByte d c else m.peek c := by
  induction n generalizing m a with
  | zero => simp only [Memory.forget]; rw [if_neg]; omega
  | succ n ih =>
    simp only [Memory.forget]
    rw [ih (Memory.wf_poke h a _) (a + 1), Memory.peek_poke h]
    by_cases hc : c = a
    · subst hc; by_cases h4 : c < 4096 <;> simp [h4]
    · have : (a + 1 ≤ c ∧ c < a + 1 + n ∧ c < 4096) ↔ (a ≤ c ∧ c < a + (n + 1) ∧ c < 4096) := by
        omega
      simp only [hc, this, false_and, if_false]

/-- A read in the space, and one outside it (20_memory.md R53). -/
theorem Memory.read_eq (m : Memory) (a : Nat) :
    m.read a = if a < 4096 then .ok (m.peek a) else .error (.addressOutOfRange a) := rfl

/-- The fetch read when both bytes are in the space (20_memory.md R55). -/
theorem Memory.readWord_ok (m : Memory) (a : Nat) (h : a < 4095) :
    m.readWord a = .ok (wordOfBytes (m.peek a) (m.peek (a + 1))) := by
  simp [Memory.readWord, Memory.read_eq, show a < 4096 by omega, show a + 1 < 4096 by omega]

/-- The fetch read when it is not: the first address outside the space is recorded
(20_memory.md R55). -/
theorem Memory.readWord_error (m : Memory) (a : Nat) (h : 4095 ≤ a) :
    m.readWord a = .error (.addressOutOfRange (max a 4096)) := by
  by_cases ha : a < 4096
  · simp [Memory.readWord, Memory.read_eq, ha, show ¬ a + 1 < 4096 by omega]; omega
  · simp [Memory.readWord, Memory.read_eq, ha]; omega

end Sys2Proof.Machine
end

