-- ==== Sys2Proof/Laws/Ops.lean ====
section
/-! SUPPORT. What each shared operation over State does, said once. -/

namespace Sys2Proof.Machine

/-- A register read after a register write (10_state.md R20). -/
theorem State.getV_setV (s : State) (x y : Nibble) (b : Byte) :
    (s.setV x b).getV y = if y = x then b else s.getV y := by
  simp only [State.getV, State.setV_v, Vector.getElem_set]
  by_cases h : y = x
  · simp [h]
  · have : x.toNat ≠ y.toNat := fun e => h (BitVec.eq_of_toNat_eq e.symm)
    simp [h, this]

@[simp] theorem State.getV_setV_self (s : State) (x : Nibble) (b : Byte) :
    (s.setV x b).getV x = b := by simp [State.getV_setV]

theorem State.getV_setV_ne (s : State) {x y : Nibble} (h : y ≠ x) (b : Byte) :
    (s.setV x b).getV y = s.getV y := by simp [State.getV_setV, h]

/-- The registers depend on the field `v` alone. -/
theorem State.getV_congr {s t : State} (h : t.v = s.v) (y : Nibble) : t.getV y = s.getV y := by
  simp only [State.getV, h]

/-- A result written, then the flag (42_alu.md R153). -/
theorem State.getV_setResultThenFlag (s : State) (x y : Nibble) (r : Byte) (c : Bool) :
    (s.setResultThenFlag x r c).getV y =
      if y = vf then flagByte c else if y = x then r else s.getV y := by
  simp [State.setResultThenFlag, State.getV_setV]

/-- The push, when there is room (10_state.md R27). -/
theorem State.push_eq (s : State) (w : Word) (h : s.sp.val < 16) :
    s.push w = some (s.setStack (s.stack.set s.sp.val w h) ⟨s.sp.val + 1, by omega⟩) := by
  simp [State.push, h]

/-- The push fails exactly on a full stack (10_state.md R27). -/
theorem State.push_full (s : State) (w : Word) (h : s.sp.val = 16) : s.push w = none := by
  simp [State.push, h]

/-- The pop fails exactly on an empty stack (10_state.md R27). -/
theorem State.pop_empty (s : State) (h : s.sp.val = 0) : s.pop = none := by simp [State.pop, h]

/-- The pop, when there is an entry: the top slot, and SP down by one (10_state.md R27). -/
theorem State.pop_eq (s : State) (h : s.sp.val ≠ 0) :
    s.pop = some (s.stack[s.sp.val - 1]'(by omega),
      s.setStack s.stack ⟨s.sp.val - 1, by omega⟩) := by simp [State.pop, h]

/-- The skip (41_control_flow.md R124). -/
theorem State.skipIf_eq (s : State) (c : Bool) :
    s.skipIf c = s.setPc (if c then s.pc + 2 else s.pc) := by
  cases c <;> rfl

/-- The three BCD digits are three bytes. -/
@[simp] theorem bcdDigits_length (b : Byte) : (bcdDigits b).length = 3 := rfl

/-- The registers of a block transfer are X + 1 bytes. -/
@[simp] theorem State.regsUpTo_length (s : State) (x : Nibble) :
    (s.regsUpTo x).length = x.toNat + 1 := by
  have := x.isLt
  simp only [State.regsUpTo, List.length_take, Vector.length_toList]
  omega

/-- Byte `k` of a block transfer is V[k]. -/
theorem State.regsUpTo_getElem (s : State) (x y : Nibble) (h : y.toNat ≤ x.toNat) :
    (s.regsUpTo x)[y.toNat]? = some (s.getV y) := by
  have := y.isLt
  simp [State.regsUpTo, State.getV, show y.toNat < x.toNat + 1 by omega]

/-- A register after the block load (43_index_memory.md R175). -/
theorem State.getV_setRegs_loaded (s : State) (x y : Nibble) :
    (s.setRegs (s.loadedRegs x)).getV y =
      if y.toNat ≤ x.toNat then s.mem.peek (s.base + y.toNat) else s.getV y := by
  simp [State.getV, State.loadedRegs]

/-- A register after the faulting block load (60_exceptions.md R239). -/
theorem State.getV_setRegs_forgotten (s : State) (x y : Nibble) :
    (s.setRegs (s.forgottenRegs x)).getV y =
      if y.toNat ≤ x.toNat then Config.faultRegByte s.draws y.toNat else s.getV y := by
  simp [State.getV, State.forgottenRegs]

/-- The store at I, case by case (43_index_memory.md R173, R174; 60_exceptions.md R239). -/
theorem State.storeAtI_cases (s : State) (bytes : List Byte) :
    (s.base + bytes.length ≤ 4096 ∧
      s.storeAtI bytes = .next (s.setMem (s.mem.pokeAll s.base bytes))) ∨
    (4096 < s.base + bytes.length ∧
      s.storeAtI bytes = raised (.addressOutOfRange (max s.base 4096))
        (s.setMem (s.mem.forget s.base (4096 - s.base) s.draws)).countDraw) := by
  by_cases h : s.base + bytes.length ≤ 4096
  · exact .inl ⟨h, by simp [State.storeAtI, h]⟩
  · exact .inr ⟨by omega, by simp [State.storeAtI, h, firstOutOfRange]⟩

/-- The load from I, case by case (43_index_memory.md R175; 60_exceptions.md R239). -/
theorem State.loadFromI_cases (s : State) (x : Nibble) :
    (s.base + x.toNat < 4096 ∧ s.loadFromI x = .next (s.setRegs (s.loadedRegs x))) ∨
    (4096 ≤ s.base + x.toNat ∧
      s.loadFromI x = raised (.addressOutOfRange (max s.base 4096))
        (s.setRegs (s.forgottenRegs x)).countDraw) := by
  by_cases h : s.base + x.toNat < 4096
  · exact .inl ⟨h, by simp [State.loadFromI, h]⟩
  · exact .inr ⟨by omega, by simp [State.loadFromI, h, firstOutOfRange]⟩

/-- The decrement of a timer, as a number (10_state.md R24). -/
theorem countDown_toNat (b : Byte) : (countDown b).toNat = b.toNat - 1 := by
  unfold countDown
  split
  · subst_vars; rfl
  · have : b.toNat ≠ 0 := fun e => ‹¬ b = 0› (BitVec.eq_of_toNat_eq (by simpa using e))
    have := b.isLt
    rw [BitVec.toNat_sub]
    simp
    omega

end Sys2Proof.Machine
end

