-- ==== Sys2Proof/Laws/Display.lean ====
section
/-! SUPPORT. What the draw procedure (44_display.md R192) leaves in each pixel, and its collision. -/

namespace Sys2Proof.Machine

/-- The bit of a sprite in row `i`, column `j`, most significant bit first (44_display.md R192);
false outside the rows. -/
def spriteBit (rows : List Byte) (i j : Nat) : Bool := (rows.getD i 0).getLsbD (7 - j)

/-- A 1 bit of the sprite lands on the pixel `(qx, qy)` (44_display.md R192). -/
def SpriteHits (x y : Nat) (rows : List Byte) (qx qy : Nat) : Prop :=
  ∃ i < rows.length, ∃ j < 8, qx = (x + j) % 64 ∧ qy = (y + i) % 32 ∧ spriteBit rows i j = true

/-- A 1 bit of the sprite lands on a pixel that is on (44_display.md R192, R194). -/
def SpriteMeets (x y : Nat) (rows : List Byte) (fb : Frame) : Prop :=
  ∃ i < rows.length, ∃ j < 8,
    pixel fb ((x + j) % 64) ((y + i) % 32) = true ∧ spriteBit rows i j = true

theorem pixelIndex_inj {px py qx qy : Nat} (hp : px < 64) (hq : qx < 64) :
    pixelIndex qx qy = pixelIndex px py ↔ qx = px ∧ qy = py := by
  simp only [pixelIndex, Config.dispW]; omega

/-- The XOR of one pixel. -/
theorem pixel_xorPixel (fb : Frame) (px py qx qy : Nat) (bit : Bool) (hp : px < 64) (hpy : py < 32)
    (hq : qx < 64) :
    pixel (xorPixel fb px py bit) qx qy = (pixel fb qx qy ^^ (bit && decide (qx = px ∧ qy = py))) := by
  have bound : pixelIndex px py < 2048 := by simp only [pixelIndex, Config.dispW]; omega
  cases bit
  · simp [xorPixel]
  · simp only [xorPixel, if_true, pixel, BitVec.getLsbD_xor, BitVec.getLsbD_twoPow, Bool.true_and,
      bound, decide_true]
    congr 1
    rw [decide_eq_decide, eq_comm]
    exact pixelIndex_inj hp hq

theorem pixel_drawRow (x y n : Nat) (row : Byte) (acc : Frame × Bool) (qx qy : Nat) (hq : qx < 64)
    (hn : n ≤ 8) :
    pixel (drawRow x y row n acc).1 qx qy =
      (pixel acc.1 qx qy ^^
        decide (qy = y % 32 ∧ ∃ j < n, qx = (x + j) % 64 ∧ row.getLsbD (7 - j) = true)) := by
  induction n with
  | zero => simp [drawRow]
  | succ n ih =>
    have h64 : (x + n) % 64 < 64 := Nat.mod_lt _ (by decide)
    have h32 : y % 32 < 32 := Nat.mod_lt _ (by decide)
    simp only [drawRow, plot, Config.dispW, Config.dispH]
    rw [pixel_xorPixel _ _ _ _ _ _ h64 h32 hq, ih (by omega), Bool.xor_assoc]
    congr 1
    by_cases hy : qy = y % 32
    · by_cases hx : qx = (x + n) % 64
      · have none : ¬ ∃ j < n, qx = (x + j) % 64 ∧ row.getLsbD (7 - j) = true := by
          rintro ⟨j, hj, e, -⟩; omega
        have last : (∃ j < n + 1, qx = (x + j) % 64 ∧ row.getLsbD (7 - j) = true) ↔
            row.getLsbD (7 - n) = true := by
          constructor
          · rintro ⟨j, hj, e, b⟩
            have : j = n := by omega
            exact this ▸ b
          · intro b; exact ⟨n, by omega, hx, b⟩
        rw [decide_eq_false fun h => none h.2, Bool.false_xor, decide_eq_true ⟨hx, hy⟩, Bool.and_true,
          Bool.eq_iff_iff, decide_eq_true_eq]
        exact ⟨fun b => ⟨hy, last.2 b⟩, fun h => last.1 h.2⟩
      · have same : (∃ j < n + 1, qx = (x + j) % 64 ∧ row.getLsbD (7 - j) = true) ↔
            ∃ j < n, qx = (x + j) % 64 ∧ row.getLsbD (7 - j) = true := by
          constructor
          · rintro ⟨j, hj, e, b⟩
            have : j ≠ n := fun h => hx (h ▸ e)
            exact ⟨j, by omega, e, b⟩
          · rintro ⟨j, hj, e, b⟩; exact ⟨j, by omega, e, b⟩
        simp only [same, hx, false_and, decide_false, Bool.and_false, Bool.xor_false]
    · simp [hy]

theorem collision_drawRow (x y n : Nat) (row : Byte) (acc : Frame × Bool) (hn : n ≤ 8) :
    (drawRow x y row n acc).2 = (acc.2 ||
      decide (∃ j < n, pixel acc.1 ((x + j) % 64) (y % 32) = true ∧ row.getLsbD (7 - j) = true)) := by
  induction n with
  | zero => simp [drawRow]
  | succ n ih =>
    have h64 : (x + n) % 64 < 64 := Nat.mod_lt _ (by decide)
    simp only [drawRow, plot, Config.dispW, Config.dispH]
    rw [ih (by omega), pixel_drawRow _ _ _ _ _ _ _ h64 (by omega), Bool.or_assoc]
    have fresh : ¬ ∃ j < n, (x + n) % 64 = (x + j) % 64 ∧ row.getLsbD (7 - j) = true := by
      rintro ⟨j, hj, e, -⟩; omega
    rw [show (decide (y % 32 = y % 32 ∧ ∃ j < n, (x + n) % 64 = (x + j) % 64 ∧
      row.getLsbD (7 - j) = true)) = false by simpa using fun j hj e => by omega]
    congr 1
    rw [Bool.eq_iff_iff]
    simp only [Bool.xor_false, Bool.or_eq_true, decide_eq_true_eq, Bool.and_eq_true]
    constructor
    · rintro (⟨j, hj, e⟩ | e)
      · exact ⟨j, by omega, e⟩
      · exact ⟨n, by omega, e⟩
    · rintro ⟨j, hj, e⟩
      by_cases h : j = n
      · exact .inr (h ▸ e)
      · exact .inl ⟨j, by omega, e⟩

open scoped Classical in
/-- Every pixel after a draw: XORed with the sprite bit that lands on it, if one does (44_display.md
R192). -/
theorem pixel_drawRows (x y : Nat) (rows : List Byte) (acc : Frame × Bool) (qx qy : Nat)
    (hx : qx < 64) (hn : rows.length ≤ 32) :
    pixel (drawRows x y rows acc).1 qx qy =
      (pixel acc.1 qx qy ^^ decide (SpriteHits x y rows qx qy)) := by
  induction rows generalizing y acc with
  | nil => simp [drawRows, SpriteHits]
  | cons row rest ih =>
    simp only [List.length_cons] at hn
    simp only [drawRows]
    rw [ih (y + 1) _ (by omega), pixel_drawRow _ _ _ _ _ _ _ hx (by omega), Bool.xor_assoc]
    congr 1
    by_cases hy : qy = y % 32
    · have none : ¬ SpriteHits x (y + 1) rest qx qy := by
        rintro ⟨i, hi, j, hj, -, e, -⟩; omega
      have first : SpriteHits x y (row :: rest) qx qy ↔
          ∃ j < 8, qx = (x + j) % 64 ∧ row.getLsbD (7 - j) = true := by
        constructor
        · rintro ⟨i, hi, j, hj, e, ey, b⟩
          simp only [List.length_cons] at hi
          have : i = 0 := by omega
          subst this
          exact ⟨j, hj, e, by simpa [spriteBit] using b⟩
        · rintro ⟨j, hj, e, b⟩
          exact ⟨0, by simp, j, hj, e, by simpa using hy, by simpa [spriteBit] using b⟩
      simp only [none, decide_false, Bool.xor_false]
      exact decide_eq_decide.2 ⟨fun h => first.2 h.2, fun h => ⟨hy, first.1 h⟩⟩
    · have rest_only : SpriteHits x y (row :: rest) qx qy ↔
          SpriteHits x (y + 1) rest qx qy := by
        constructor
        · rintro ⟨i, hi, j, hj, e, ey, b⟩
          cases i with
          | zero => exact absurd (by simpa using ey) hy
          | succ i =>
            exact ⟨i, by simpa using hi, j, hj, e, by rw [ey]; congr 1; omega,
              by simpa [spriteBit] using b⟩
        · rintro ⟨i, hi, j, hj, e, ey, b⟩
          exact ⟨i + 1, by simpa using hi, j, hj, e, by rw [ey]; congr 1; omega,
            by simpa [spriteBit] using b⟩
      rw [decide_eq_false fun h => hy h.1, Bool.false_xor]
      exact decide_eq_decide.2 rest_only.symm

open scoped Classical in
/-- The collision of a draw: some on pixel met a 1 bit of the sprite (44_display.md R192, R194). -/
theorem collision_drawRows (x y : Nat) (rows : List Byte) (acc : Frame × Bool)
    (hn : rows.length ≤ 32) :
    (drawRows x y rows acc).2 = (acc.2 || decide (SpriteMeets x y rows acc.1)) := by
  induction rows generalizing y acc with
  | nil => simp [drawRows, SpriteMeets]
  | cons row rest ih =>
    simp only [List.length_cons] at hn
    simp only [drawRows]
    rw [ih (y + 1) _ (by omega), collision_drawRow _ _ _ _ _ (by omega), Bool.or_assoc]
    congr 1
    rw [Bool.eq_iff_iff]
    simp only [Bool.or_eq_true, decide_eq_true_eq]
    have later : ∀ i < rest.length, ∀ j < 8,
        pixel (drawRow x y row 8 acc).1 ((x + j) % 64) ((y + 1 + i) % 32) =
          pixel acc.1 ((x + j) % 64) ((y + 1 + i) % 32) := by
      intro i hi j _
      rw [pixel_drawRow _ _ _ _ _ _ _ (Nat.mod_lt _ (by decide)) (by omega)]
      have : ¬ (y + 1 + i) % 32 = y % 32 := by omega
      simp only [this, false_and, decide_false, Bool.xor_false]
    constructor
    · rintro (⟨j, hj, p, b⟩ | ⟨i, hi, j, hj, p, b⟩)
      · exact ⟨0, by simp, j, hj, by simpa using p, by simpa [spriteBit] using b⟩
      · rw [later i hi j hj] at p
        exact ⟨i + 1, by simpa using hi, j, hj,
          by rw [show y + (i + 1) = y + 1 + i by omega]; exact p, by simpa [spriteBit] using b⟩
    · rintro ⟨i, hi, j, hj, p, b⟩
      cases i with
      | zero => exact .inl ⟨j, hj, by simpa using p, by simpa [spriteBit] using b⟩
      | succ i =>
        have hi' : i < rest.length := by simpa using hi
        refine .inr ⟨i, hi', j, hj, ?_, by simpa [spriteBit] using b⟩
        rw [later i hi' j hj, show y + 1 + i = y + (i + 1) by omega]; exact p

open scoped Classical in
/-- The pixel a sprite bit lands on after a draw (44_display.md R192). -/
theorem pixel_drawRows_hit (x y : Nat) (rows : List Byte) (acc : Frame × Bool) {i j : Nat}
    (hi : i < rows.length) (hj : j < 8) (hn : rows.length ≤ 32) :
    pixel (drawRows x y rows acc).1 ((x + j) % 64) ((y + i) % 32) =
      (pixel acc.1 ((x + j) % 64) ((y + i) % 32) ^^ spriteBit rows i j) := by
  refine (pixel_drawRows x y rows acc _ _ (Nat.mod_lt _ (by decide)) hn).trans ?_
  congr 1
  rw [Bool.eq_iff_iff, decide_eq_true_iff]
  constructor
  · rintro ⟨i', hi', j', hj', e1, e2, b⟩
    obtain rfl : i' = i := by omega
    obtain rfl : j' = j := by omega
    exact b
  · exact fun b => ⟨i, hi, j, hj, rfl, rfl, b⟩

open scoped Classical in
/-- A pixel no sprite bit lands on is kept by a draw (44_display.md R192). -/
theorem pixel_drawRows_miss (x y : Nat) (rows : List Byte) (acc : Frame × Bool) {qx qy : Nat}
    (hx : qx < 64) (hn : rows.length ≤ 32)
    (miss : ∀ i j, i < rows.length → j < 8 → ¬ (qx = (x + j) % 64 ∧ qy = (y + i) % 32)) :
    pixel (drawRows x y rows acc).1 qx qy = pixel acc.1 qx qy := by
  refine (pixel_drawRows x y rows acc _ _ hx hn).trans ?_
  rw [decide_eq_false, Bool.xor_false]
  rintro ⟨i, hi, j, hj, e1, e2, -⟩
  exact miss i j hi hj ⟨e1, e2⟩

open scoped Classical in
/-- The collision of a draw, without decidability (44_display.md R192, R194). -/
theorem collision_drawRows_iff (x y : Nat) (rows : List Byte) (acc : Frame × Bool)
    (hn : rows.length ≤ 32) :
    (drawRows x y rows acc).2 = true ↔ acc.2 = true ∨ ∃ i j, i < rows.length ∧ j < 8 ∧
      spriteBit rows i j = true ∧ pixel acc.1 ((x + j) % 64) ((y + i) % 32) = true := by
  rw [collision_drawRows x y rows acc hn, Bool.or_eq_true, decide_eq_true_iff]
  exact or_congr Iff.rfl ⟨fun ⟨i, hi, j, hj, p, b⟩ => ⟨i, j, hi, hj, b, p⟩,
    fun ⟨i, j, hi, hj, b, p⟩ => ⟨i, hi, j, hj, p, b⟩⟩

/-- The sprite read in the space, and outside it (20_memory.md R65). -/
theorem Memory.readSprite_ok (m : Memory) (a n : Nat) (h : a + n ≤ 4096) :
    m.readSprite a n = .ok ((List.range n).map fun k => m.peek (a + k)) := by
  simp [Memory.readSprite, h]

theorem Memory.readSprite_error (m : Memory) (a n : Nat) (h : 4096 < a + n) :
    m.readSprite a n = .error (.addressOutOfRange (max a 4096)) := by
  simp [Memory.readSprite, firstOutOfRange, show ¬ a + n ≤ 4096 by omega]

end Sys2Proof.Machine
end

