-- ==== Sys2Proof/Laws/Step.lean ====
section
/-! SUPPORT. Everything a step can do, said once, and the fetch it begins with. -/

namespace Sys2Proof.Machine

/-- The fetch of a PC both of whose bytes are in the space (40_step_cycle.md R101). -/
theorem State.fetch_ok (s : State) (h : s.pc.toNat < 4095) :
    s.fetch = .ok (wordOfBytes (s.mem.peek s.pc.toNat) (s.mem.peek (s.pc.toNat + 1))) :=
  Memory.readWord_ok _ _ h

/-- The fetch of any other PC (40_step_cycle.md R101). -/
theorem State.fetch_error (s : State) (h : 4095 ≤ s.pc.toNat) :
    s.fetch = .error (.addressOutOfRange (max s.pc.toNat 4096)) :=
  Memory.readWord_error _ _ h

/-- A step on a halted engine (40_step_cycle.md R107). -/
theorem step_halted (s : State) (f : Fault) (h : s.cause = some f) : step s = .fault f := by
  simp [step, h]

/-- A step whose fetch fails (60_exceptions.md R239). -/
theorem step_fetch_error (s : State) (f : Fault) (h : s.cause = none) (hf : s.fetch = .error f) :
    step s = .next (s.raise f) := by
  simp [step, h, hf, raised]

/-- A step whose word does not decode (60_exceptions.md R232). -/
theorem step_decode_error (s : State) (op : Word) (e : Rejection) (h : s.cause = none)
    (hf : s.fetch = .ok op) (hd : decode op = .error e) :
    step s = .next (s.raise (.invalidOpcode op)) := by
  simp [step, h, hf, hd, raised]

/-- A step that dispatches (40_step_cycle.md R105). -/
theorem step_dispatch (s : State) (op : Word) (i : Instr) (h : s.cause = none)
    (hf : s.fetch = .ok op) (hd : decode op = .ok i) : step s = exec i s.dispatchState := by
  simp [step, h, hf, hd]

/-- Every way a step answers a next state. -/
theorem step_cases {s t : State} (h : step s = .next t) :
    s.cause = none ∧
    ((4095 ≤ s.pc.toNat ∧ t = s.raise (.addressOutOfRange (max s.pc.toNat 4096))) ∨
     (∃ op e, s.pc.toNat < 4095 ∧ s.fetch = .ok op ∧ decode op = .error e ∧
        t = s.raise (.invalidOpcode op)) ∨
     (∃ op i, s.pc.toNat < 4095 ∧ s.fetch = .ok op ∧ decode op = .ok i ∧
        exec i s.dispatchState = .next t)) := by
  cases hc : s.cause with
  | some f => rw [step_halted s f hc] at h; cases h
  | none =>
    refine ⟨rfl, ?_⟩
    by_cases hp : s.pc.toNat < 4095
    · have hf := s.fetch_ok hp
      cases hd : decode (wordOfBytes (s.mem.peek s.pc.toNat) (s.mem.peek (s.pc.toNat + 1))) with
      | error e =>
        rw [step_decode_error s _ e hc hf hd] at h
        cases h
        exact .inr (.inl ⟨_, e, hp, hf, hd, rfl⟩)
      | ok i =>
        rw [step_dispatch s _ i hc hf hd] at h
        exact .inr (.inr ⟨_, i, hp, hf, hd, h⟩)
    · rw [step_fetch_error s _ hc (s.fetch_error (by omega))] at h
      cases h
      exact .inl ⟨by omega, rfl⟩

/-- Memory after reset is in canonical form. -/
theorem reset_mem_wf : State.reset.mem.wf := by decide

/-- The bytes `placeOpcode` stores are the word the next step fetches (log 17). -/
theorem State.fetch_placeOpcode (s : State) (hm : s.mem.wf) (op : Word) :
    (s.placeOpcode op).fetch = .ok op := by
  have key : ∀ t : State, t.mem.wf → t.pc.toNat < 4095 →
      (t.setMem ((t.mem.poke t.pc.toNat (hiByte op)).poke (t.pc.toNat + 1) (loByte op))).fetch =
        .ok op := by
    intro t ht hp
    have hw := Memory.wf_poke ht t.pc.toNat (hiByte op)
    rw [State.fetch_ok _ (by simpa using hp)]
    simp [Memory.peek_poke hw, Memory.peek_poke ht, show t.pc.toNat < 4096 by omega,
      show t.pc.toNat + 1 < 4096 by omega]
  refine key _ hm ?_
  simp only [State.setPc_pc]
  split
  · assumption
  · decide

/-- ... and the engine is not halted. -/
@[simp] theorem State.placeOpcode_cause (s : State) (op : Word) :
    (s.placeOpcode op).cause = none := rfl

end Sys2Proof.Machine
end

