-- ==== Sys2Proof/Laws/Exec.lean ====
section
/-! SUPPORT. The instructions whose meaning has more than one case, case by case, and the numbers of
the zero extensions: what `exec` answers without unfolding a meaning. -/

namespace Sys2Proof.Machine

/-- `zext_16` does not change the number (00_scope.md R9). -/
@[simp] theorem zextAddr_toNat (a : Addr) : (zextAddr a).toNat = a.toNat := by
  have := a.isLt
  simp [zextAddr]; omega

/-- `zext_16` does not change the number (00_scope.md R9). -/
@[simp] theorem zextByte_toNat (b : Byte) : (zextByte b).toNat = b.toNat := by
  have := b.isLt
  simp [zextByte]; omega

/-- The glyph address of a digit (20_memory.md R67). -/
theorem glyphAddr_toNat (d : Byte) (h : d.toNat ≤ 15) : (glyphAddr d).toNat = d.toNat * 5 := by
  have : d ≤ 15 := by simpa [BitVec.le_def] using h
  rw [glyphAddr, if_pos this, BitVec.toNat_mul, zextByte_toNat]
  simp; omega

/-- RET: a pop, or a raise (41_control_flow.md R121). -/
theorem execRet_cases (s : State) :
    (∃ _h : s.sp.val ≠ 0, exec .ret s = .next ((s.setStack s.stack ⟨s.sp.val - 1, by omega⟩).setPc
      (s.stack[s.sp.val - 1]'(by omega)))) ∨
    (s.sp.val = 0 ∧ exec .ret s = .next (s.raise .stackUnderflow)) := by
  by_cases h : s.sp.val = 0
  · exact .inr ⟨h, by simp only [exec, execRet, State.pop_empty s h, raised]⟩
  · exact .inl ⟨h, by simp only [exec, execRet, State.pop_eq s h]⟩

/-- CALL: a push and a jump, or a raise (41_control_flow.md R123). -/
theorem execCall_cases (n : Addr) (s : State) :
    (∃ h : s.sp.val < 16, exec (.call n) s = .next ((s.setStack (s.stack.set s.sp.val s.pc h)
      ⟨s.sp.val + 1, by omega⟩).setPc (zextAddr n))) ∨
    (s.sp.val = 16 ∧ exec (.call n) s = .next (s.raise .stackOverflow)) := by
  by_cases h : s.sp.val < 16
  · exact .inl ⟨h, by simp only [exec, execCall, State.push_eq s _ h]⟩
  · have full : s.sp.val = 16 := by omega
    exact .inr ⟨full, by simp only [exec, execCall, State.push_full s _ full, raised]⟩

/-- The rows a draw reads: the bytes at I upward (20_memory.md R65). -/
def spriteRows (s : State) (n : Nat) : List Byte := (List.range n).map fun k => s.mem.peek (s.base + k)

@[simp] theorem spriteRows_length (s : State) (n : Nat) : (spriteRows s n).length = n := by
  simp [spriteRows]

/-- Their bits. -/
theorem spriteBit_spriteRows (s : State) (n i j : Nat) (h : i < n) :
    spriteBit (spriteRows s n) i j = spriteBitAt s i j := by
  simp [spriteBit, spriteRows, spriteBitAt, State.base, h]

/-- DRW: a draw and its flag, or a raise (44_display.md R193). -/
theorem execDrw_cases (x y n : Nibble) (s : State) :
    (s.base + n.toNat ≤ 4096 ∧ exec (.drw x y n) s = .next ((s.setFb (drawRows (s.getV x).toNat
      (s.getV y).toNat (spriteRows s n.toNat) (s.fb, false)).1).setV vf (flagByte (drawRows
      (s.getV x).toNat (s.getV y).toNat (spriteRows s n.toNat) (s.fb, false)).2))) ∨
    (4096 < s.base + n.toNat ∧
      exec (.drw x y n) s = .next (s.raise (.addressOutOfRange (max s.base 4096)))) := by
  by_cases h : s.base + n.toNat ≤ 4096
  · exact .inl ⟨h, by simp only [exec, execDrw, Memory.readSprite_ok _ _ _ h, spriteRows]⟩
  · have out : 4096 < s.base + n.toNat := by omega
    exact .inr ⟨out, by simp only [exec, execDrw, Memory.readSprite_error _ _ _ out, raised]⟩

/-- The wait for a key: a key, or the rewind (45_keypad_timers.md R212). -/
theorem execLdVxK_cases (x : Nibble) (s : State) :
    (∃ k, s.lowestKey = some k ∧ exec (.ldVxK x) s = .next (s.setV x (BitVec.ofNat 8 k))) ∨
    (s.lowestKey = none ∧ exec (.ldVxK x) s = .next (s.setPc (s.pc - 2))) := by
  cases h : s.lowestKey with
  | some k => exact .inl ⟨k, rfl, by simp only [exec, execLdVxK, h]⟩
  | none => exact .inr ⟨rfl, by simp only [exec, execLdVxK, h]⟩

/-- The BCD store, case by case (43_index_memory.md R173). -/
theorem execLdBVx_eq (x : Nibble) (s : State) :
    exec (.ldBVx x) s = s.storeAtI (bcdDigits (s.getV x)) := rfl

/-- The block store, case by case (43_index_memory.md R174). -/
theorem execLdMemVx_eq (x : Nibble) (s : State) :
    exec (.ldMemVx x) s = s.storeAtI (s.regsUpTo x) := rfl

/-- The block load, case by case (43_index_memory.md R175). -/
theorem execLdVxMem_eq (x : Nibble) (s : State) : exec (.ldVxMem x) s = s.loadFromI x := rfl

/-- No instruction changes a slot below SP: `2nnn` writes the one at SP, and no other writes any
(10_state.md R26, R27). -/
theorem exec_stack_below (i : Instr) {s t : State} (he : exec i s = .next t) (k : Fin 16)
    (hk : k.val < s.sp.val) : t.stack[k.val] = s.stack[k.val] := by
  cases i
  case ret => rcases execRet_cases s with ⟨_, h⟩ | ⟨_, h⟩ <;> (rw [h] at he; cases he; simp)
  case call n =>
    rcases execCall_cases n s with ⟨_, h⟩ | ⟨_, h⟩ <;> (rw [h] at he; cases he)
    · simp [show ¬ s.sp.val = k.val by omega]
    · simp
  case drw x y n =>
    rcases execDrw_cases x y n s with ⟨_, h⟩ | ⟨_, h⟩ <;> (rw [h] at he; cases he; simp)
  case ldVxK x => rcases execLdVxK_cases x s with ⟨_, _, h⟩ | ⟨_, h⟩ <;> (rw [h] at he; cases he; simp)
  case ldBVx x =>
    rcases State.storeAtI_cases s (bcdDigits (s.getV x)) with ⟨_, h⟩ | ⟨_, h⟩ <;>
      (rw [execLdBVx_eq, h] at he; cases he; simp)
  case ldMemVx x =>
    rcases State.storeAtI_cases s (s.regsUpTo x) with ⟨_, h⟩ | ⟨_, h⟩ <;>
      (rw [execLdMemVx_eq, h] at he; cases he; simp)
  case ldVxMem x =>
    rcases State.loadFromI_cases s x with ⟨_, h⟩ | ⟨_, h⟩ <;>
      (rw [execLdVxMem_eq, h] at he; cases he; simp)
  all_goals (cases he; simp [State.skipIf_eq, State.setResultThenFlag])

/-- No step does either. -/
theorem step_stack_below {s t : State} (h : step s = .next t) (k : Fin 16) (hk : k.val < s.sp.val) :
    t.stack[k.val] = s.stack[k.val] := by
  obtain ⟨-, ⟨-, rfl⟩ | ⟨_, _, -, -, -, rfl⟩ | ⟨_, i, -, -, -, he⟩⟩ := step_cases h
  · rfl
  · rfl
  · simpa using exec_stack_below i he k (by simpa using hk)

/-- A run that never leaves fewer than `d` entries keeps the `d` lowest slots. -/
theorem RunsWithin.slot_kept {d : Nat} {s t : State} (h : RunsWithin d s t) (k : Fin 16)
    (hk : k.val < d) : d ≤ t.sp.val ∧ t.stack[k.val] = s.stack[k.val] := by
  induction h with
  | start hd => exact ⟨hd, rfl⟩
  | more _ hs hd ih => exact ⟨hd, (step_stack_below hs k (by omega)).trans ih.2⟩

end Sys2Proof.Machine
end

