-- ==== Sys2Proof/Laws/PerInstr.lean ====
section
/-! SUPPORT. Statements made of every instruction, one lemma per constructor. EncodeRow: the word of
an instruction matches its row of the opcode map (30_encoding.md R94). -/

namespace Sys2Proof

theorem packNNN_row (f : Nibble) (nnn : Addr) : packNNN f nnn &&& 0xF000 = packNNN f 0 := by
  ext i hi; interval_cases i <;> simp [packNNN]

theorem packXKK_row (f x : Nibble) (kk : Byte) : packXKK f x kk &&& 0xF000 = packXKK f 0 0 := by
  ext i hi; interval_cases i <;> simp [packXKK]

theorem packXKK_selector_row (f x : Nibble) (kk : Byte) :
    packXKK f x kk &&& 0xF0FF = packXKK f 0 kk := by
  ext i hi; interval_cases i <;> simp [packXKK]

theorem packXYN_row (f x y n : Nibble) : packXYN f x y n &&& 0xF000 = packXYN f 0 0 0 := by
  ext i hi; interval_cases i <;> simp [packXYN]

theorem packXYN_selector_row (f x y n : Nibble) : packXYN f x y n &&& 0xF00F = packXYN f 0 0 n := by
  ext i hi; interval_cases i <;> simp [packXYN]

/-- The word of an instruction has its row's fixed bits. -/
def Laws.EncodeRow.Statement (i : Instr) : Prop := encode i &&& rowMask i = rowMatch i

theorem Laws.EncodeRow.sys (nnn : Addr) : Laws.EncodeRow.Statement (.sys nnn) :=
  (packNNN_row _ _).trans rfl

theorem Laws.EncodeRow.cls : Laws.EncodeRow.Statement .cls := by
  unfold Laws.EncodeRow.Statement; decide

theorem Laws.EncodeRow.ret : Laws.EncodeRow.Statement .ret := by
  unfold Laws.EncodeRow.Statement; decide

theorem Laws.EncodeRow.jp (nnn : Addr) : Laws.EncodeRow.Statement (.jp nnn) :=
  (packNNN_row _ _).trans rfl

theorem Laws.EncodeRow.call (nnn : Addr) : Laws.EncodeRow.Statement (.call nnn) :=
  (packNNN_row _ _).trans rfl

theorem Laws.EncodeRow.seByte (x : Nibble) (kk : Byte) : Laws.EncodeRow.Statement (.seByte x kk) :=
  (packXKK_row _ _ _).trans rfl

theorem Laws.EncodeRow.sneByte (x : Nibble) (kk : Byte) : Laws.EncodeRow.Statement (.sneByte x kk) :=
  (packXKK_row _ _ _).trans rfl

theorem Laws.EncodeRow.seReg (x y : Nibble) : Laws.EncodeRow.Statement (.seReg x y) :=
  (packXYN_row _ _ _ _).trans rfl

theorem Laws.EncodeRow.ldByte (x : Nibble) (kk : Byte) : Laws.EncodeRow.Statement (.ldByte x kk) :=
  (packXKK_row _ _ _).trans rfl

theorem Laws.EncodeRow.addByte (x : Nibble) (kk : Byte) : Laws.EncodeRow.Statement (.addByte x kk) :=
  (packXKK_row _ _ _).trans rfl

theorem Laws.EncodeRow.ldReg (x y : Nibble) : Laws.EncodeRow.Statement (.ldReg x y) :=
  (packXYN_selector_row _ _ _ _).trans rfl

theorem Laws.EncodeRow.or (x y : Nibble) : Laws.EncodeRow.Statement (.or x y) :=
  (packXYN_selector_row _ _ _ _).trans rfl

theorem Laws.EncodeRow.and (x y : Nibble) : Laws.EncodeRow.Statement (.and x y) :=
  (packXYN_selector_row _ _ _ _).trans rfl

theorem Laws.EncodeRow.xor (x y : Nibble) : Laws.EncodeRow.Statement (.xor x y) :=
  (packXYN_selector_row _ _ _ _).trans rfl

theorem Laws.EncodeRow.addReg (x y : Nibble) : Laws.EncodeRow.Statement (.addReg x y) :=
  (packXYN_selector_row _ _ _ _).trans rfl

theorem Laws.EncodeRow.sub (x y : Nibble) : Laws.EncodeRow.Statement (.sub x y) :=
  (packXYN_selector_row _ _ _ _).trans rfl

theorem Laws.EncodeRow.shr (x : Nibble) : Laws.EncodeRow.Statement (.shr x) :=
  (packXYN_selector_row _ _ _ _).trans rfl

theorem Laws.EncodeRow.subn (x y : Nibble) : Laws.EncodeRow.Statement (.subn x y) :=
  (packXYN_selector_row _ _ _ _).trans rfl

theorem Laws.EncodeRow.shl (x : Nibble) : Laws.EncodeRow.Statement (.shl x) :=
  (packXYN_selector_row _ _ _ _).trans rfl

theorem Laws.EncodeRow.sneReg (x y : Nibble) : Laws.EncodeRow.Statement (.sneReg x y) :=
  (packXYN_row _ _ _ _).trans rfl

theorem Laws.EncodeRow.ldI (nnn : Addr) : Laws.EncodeRow.Statement (.ldI nnn) :=
  (packNNN_row _ _).trans rfl

theorem Laws.EncodeRow.jpV0 (nnn : Addr) : Laws.EncodeRow.Statement (.jpV0 nnn) :=
  (packNNN_row _ _).trans rfl

theorem Laws.EncodeRow.rnd (x : Nibble) (kk : Byte) : Laws.EncodeRow.Statement (.rnd x kk) :=
  (packXKK_row _ _ _).trans rfl

theorem Laws.EncodeRow.drw (x y n : Nibble) : Laws.EncodeRow.Statement (.drw x y n) :=
  (packXYN_row _ _ _ _).trans rfl

theorem Laws.EncodeRow.skp (x : Nibble) : Laws.EncodeRow.Statement (.skp x) :=
  (packXKK_selector_row _ _ _).trans rfl

theorem Laws.EncodeRow.sknp (x : Nibble) : Laws.EncodeRow.Statement (.sknp x) :=
  (packXKK_selector_row _ _ _).trans rfl

theorem Laws.EncodeRow.ldVxDt (x : Nibble) : Laws.EncodeRow.Statement (.ldVxDt x) :=
  (packXKK_selector_row _ _ _).trans rfl

theorem Laws.EncodeRow.ldVxK (x : Nibble) : Laws.EncodeRow.Statement (.ldVxK x) :=
  (packXKK_selector_row _ _ _).trans rfl

theorem Laws.EncodeRow.ldDtVx (x : Nibble) : Laws.EncodeRow.Statement (.ldDtVx x) :=
  (packXKK_selector_row _ _ _).trans rfl

theorem Laws.EncodeRow.ldStVx (x : Nibble) : Laws.EncodeRow.Statement (.ldStVx x) :=
  (packXKK_selector_row _ _ _).trans rfl

theorem Laws.EncodeRow.addIVx (x : Nibble) : Laws.EncodeRow.Statement (.addIVx x) :=
  (packXKK_selector_row _ _ _).trans rfl

theorem Laws.EncodeRow.ldFVx (x : Nibble) : Laws.EncodeRow.Statement (.ldFVx x) :=
  (packXKK_selector_row _ _ _).trans rfl

theorem Laws.EncodeRow.ldBVx (x : Nibble) : Laws.EncodeRow.Statement (.ldBVx x) :=
  (packXKK_selector_row _ _ _).trans rfl

theorem Laws.EncodeRow.ldMemVx (x : Nibble) : Laws.EncodeRow.Statement (.ldMemVx x) :=
  (packXKK_selector_row _ _ _).trans rfl

theorem Laws.EncodeRow.ldVxMem (x : Nibble) : Laws.EncodeRow.Statement (.ldVxMem x) :=
  (packXKK_selector_row _ _ _).trans rfl

end Sys2Proof
end

