-- ==== Sys2Proof/Tests/Slice0.lean ====
section
/-! SUPPORT. Tests on fixed values: well-formedness, decoding, one step of each instruction, and a
witness for the hypotheses of each statement. Expected results are those of 95_test_vectors.md (its
vector is named in the comment) or worked by hand from the rule named. -/

open Sys2Proof Sys2Proof.Machine

namespace Sys2Proof.Tests

-- one proof at a time: these checks in parallel ask the sandbox for more threads than it gives
set_option Elab.async false

/-- The outcome is a next state of which `p` holds. -/
def ends (o : Result) (p : State → Bool) : Bool :=
  match o with
  | .next s => p s
  | .fault _ => false
  | .refused _ => false

/-- The outcome is that fault. -/
def stops (o : Result) (f : Fault) : Bool :=
  match o with
  | .next _ => false
  | .fault g => g == f
  | .refused _ => false

/-- The reset state with some registers set. -/
def regs (vs : List (Nibble × Byte)) : State :=
  vs.foldl (fun s p => s.setV p.1 p.2) State.reset

/-- The state with bytes placed from an address up. -/
def bytesAt (s : State) (a : Nat) (bs : List Byte) : State := s.setMem (s.mem.pokeAll a bs)

/-- One step from `s` with the opcode placed at PC ends in a next state of which `p` holds. -/
def runs (s : State) (op : Nat) (p : State → Bool) : Bool := ends (step (s.withFetchWord 16 op)) p

/-- The register holds the byte. -/
def has (t : State) (x : Nibble) (b : Byte) : Bool := t.getV x == b

/-- The byte in memory at an address. -/
def holds (t : State) (a : Nat) (bs : List Byte) : Bool :=
  ((List.range bs.length).map fun k => t.mem.peek (a + k)) == bs

/-- Exactly the listed pixels `(column, row)` are on. -/
def lit (ps : List (Nat × Nat)) : Frame :=
  ps.foldl (fun fb p => fb ||| BitVec.twoPow 2048 (p.2 * 64 + p.1)) 0

/-- PC is this address and nothing has been raised. -/
def okAt (t : State) (pc : Word) : Bool := t.pc == pc && t.cause == none

/-! ## Well-formedness: the one check refuses its two terms -/

theorem test_wf_sys_is_not_cls : (Instr.sys 0x0E0).wellFormed = false := by decide
theorem test_wf_sys_is_not_ret : (Instr.sys 0x0EE).wellFormed = false := by decide
theorem test_wf_sys_other : (Instr.sys 0x0E1).wellFormed = true := by decide

/-! ## Decoding: every constructor, from words written out bit by bit from the patterns of
30_encoding.md R94 (E1 to E28) -/

-- E4, E5, E6, E7: family 0000
theorem test_decode_sys : decode 0b0000000111100000 = .ok (.sys 0x1E0) := by decide
theorem test_decode_sys_zero : decode 0x0000 = .ok (.sys 0x000) := by decide
theorem test_decode_sys_top : decode 0x0FFF = .ok (.sys 0xFFF) := by decide
theorem test_decode_sys_00FF : decode 0x00FF = .ok (.sys 0x0FF) := by decide
-- E2, E3
theorem test_decode_cls : decode 0b0000000011100000 = .ok .cls := by decide
theorem test_decode_ret : decode 0b0000000011101110 = .ok .ret := by decide
-- E1, E8
theorem test_decode_jp : decode 0b0001001000110100 = .ok (.jp 0x234) := by decide
theorem test_decode_call : decode 0b0010101010111100 = .ok (.call 0xABC) := by decide
-- E9 to E15
theorem test_decode_seByte : decode 0b0011101001111111 = .ok (.seByte 0xA 0x7F) := by decide
theorem test_decode_sneByte : decode 0b0100101100000000 = .ok (.sneByte 0xB 0x00) := by decide
theorem test_decode_seReg : decode 0b0101101010110000 = .ok (.seReg 0xA 0xB) := by decide
theorem test_decode_seReg_low_nibble : decode 0x5AB7 = .ok (.seReg 0xA 0xB) := by decide
theorem test_decode_sneReg : decode 0b1001101010110001 = .ok (.sneReg 0xA 0xB) := by decide
theorem test_decode_ldByte : decode 0b0110110001000010 = .ok (.ldByte 0xC 0x42) := by decide
theorem test_decode_addByte : decode 0b0111110100000001 = .ok (.addByte 0xD 0x01) := by decide
-- E16
theorem test_decode_ldReg : decode 0b1000000100100000 = .ok (.ldReg 0x1 0x2) := by decide
theorem test_decode_or : decode 0b1000000100100001 = .ok (.or 0x1 0x2) := by decide
theorem test_decode_and : decode 0b1000000100100010 = .ok (.and 0x1 0x2) := by decide
theorem test_decode_xor : decode 0b1000000100100011 = .ok (.xor 0x1 0x2) := by decide
theorem test_decode_addReg : decode 0b1000000100100100 = .ok (.addReg 0x1 0x2) := by decide
theorem test_decode_sub : decode 0b1000000100100101 = .ok (.sub 0x1 0x2) := by decide
theorem test_decode_shr : decode 0b1000000100100110 = .ok (.shr 0x1) := by decide
theorem test_decode_subn : decode 0b1000000100100111 = .ok (.subn 0x1 0x2) := by decide
theorem test_decode_shl : decode 0b1000000100101110 = .ok (.shl 0x1) := by decide
-- E19 to E22
theorem test_decode_ldI : decode 0b1010000100100011 = .ok (.ldI 0x123) := by decide
theorem test_decode_jpV0 : decode 0b1011001100000000 = .ok (.jpV0 0x300) := by decide
theorem test_decode_rnd : decode 0b1100001100001111 = .ok (.rnd 0x3 0x0F) := by decide
theorem test_decode_drw : decode 0b1101000000010101 = .ok (.drw 0x0 0x1 0x5) := by decide
-- E23, E24b
theorem test_decode_skp : decode 0b1110010110011110 = .ok (.skp 0x5) := by decide
theorem test_decode_sknp : decode 0b1110111110100001 = .ok (.sknp 0xF) := by decide
-- E25, E26
theorem test_decode_ldVxDt : decode 0b1111000000000111 = .ok (.ldVxDt 0x0) := by decide
theorem test_decode_ldVxK : decode 0b1111000000001010 = .ok (.ldVxK 0x0) := by decide
theorem test_decode_ldDtVx : decode 0b1111000000010101 = .ok (.ldDtVx 0x0) := by decide
theorem test_decode_ldStVx : decode 0b1111000000011000 = .ok (.ldStVx 0x0) := by decide
theorem test_decode_addIVx : decode 0b1111000000011110 = .ok (.addIVx 0x0) := by decide
theorem test_decode_ldFVx : decode 0b1111000000101001 = .ok (.ldFVx 0x0) := by decide
theorem test_decode_ldBVx : decode 0b1111000000110011 = .ok (.ldBVx 0x0) := by decide
theorem test_decode_ldMemVx : decode 0b1111000001010101 = .ok (.ldMemVx 0x0) := by decide
theorem test_decode_ldVxMem : decode 0b1111111101100101 = .ok (.ldVxMem 0xF) := by decide

-- E17, E18, E24, E27, E28: words that decode to nothing, each rejected with itself
theorem test_decode_invalid :
    ([0x8128, 0x8129, 0x812A, 0x812B, 0x812C, 0x812D, 0x812F, 0x8008, 0xE000, 0xE59F, 0xE5A0,
      0xE19D, 0xF000, 0xF001, 0xF00B, 0xF016, 0xF075, 0xF085, 0xF0FF, 0xFFFF, 0xF130,
      0xF175].all fun op => decode op == .error (.invalidOpcode op)) = true := by decide +kernel

-- 30_encoding.md R80: an instruction is two bytes, the high byte first
theorem test_decode_bytes : decodeBytes [0x12, 0x34, 0x56] = .ok (.jp 0x234, [0x56]) := by decide
theorem test_decode_one_byte : decodeBytes [0x12] = .error (.truncated 1) := by decide
theorem test_encode_bytes : encodeBytes (.ldByte 0xC 0x42) = [0x6C, 0x42] := by decide
theorem test_table_word : decodeTableWord 16 0x8127 = some (.subn 0x1 0x2) := by decide
theorem test_table_word_invalid : decodeTableWord 16 0x8128 = none := by decide

/-- Rows of the families 0 to 7, the two rows with priority first. -/
def lowRows : List Instr :=
  [.cls, .ret, .sys 0, .jp 0, .call 0, .seByte 0 0, .sneByte 0 0, .seReg 0 0, .ldByte 0 0,
    .addByte 0 0]

/-- Rows of the families 8 to D. -/
def midRows : List Instr :=
  [.ldReg 0 0, .or 0 0, .and 0 0, .xor 0 0, .addReg 0 0, .sub 0 0, .shr 0, .subn 0 0, .shl 0,
    .sneReg 0 0, .ldI 0, .jpV0 0, .rnd 0 0, .drw 0 0 0]

/-- Rows of the families E and F. -/
def highRows : List Instr :=
  [.skp 0, .sknp 0, .ldVxDt 0, .ldVxK 0, .ldDtVx 0, .ldStVx 0, .addIVx 0, .ldFVx 0, .ldBVx 0,
    .ldMemVx 0, .ldVxMem 0]

/-- One instruction of every row of the opcode table. -/
def rows : List Instr := lowRows ++ (midRows ++ highRows)

/-- Two rows differ in a bit that both fix. -/
def apart (a b : Instr) : Bool := (rowMatch a ^^^ rowMatch b) &&& rowMask a &&& rowMask b != 0

/-- Every row of the list is apart from every later one. -/
def allApart : List Instr → Bool
  | [] => true
  | a :: rest => rest.all (apart a) && allApart rest

-- 30_encoding.md R91: the rows are disjoint, but for 00E0 and 00EE inside 0nnn
theorem test_rows_disjoint :
    (rows.length == 35 && allApart (rows.drop 2) &&
      (rows.drop 3).all (apart .cls) && (rows.drop 3).all (apart .ret) && apart .cls .ret) = true := by
  decide +kernel

/-! ## Control flow (F vectors) -/

-- F1
theorem test_sys : runs State.reset 0x0123 (okAt · 0x202) = true := by decide
-- F4, F5
theorem test_call : runs State.reset 0x2300
    (fun t => okAt t 0x300 && t.sp == 1 && t.stack[0] == 0x202) = true := by decide
theorem test_ret :
    runs ((State.reset.setStack (State.reset.stack.set 0 0x0206) 1).setPc 0x300) 0x00EE
      (fun t => okAt t 0x206 && t.sp == 0) = true := by decide
-- F2, F19: a jump to an odd address
theorem test_jp_self : runs State.reset 0x1200 (okAt · 0x200) = true := by decide
theorem test_jp_odd : runs (State.reset.setPc 0x201) 0x1201 (okAt · 0x201) = true := by decide
-- F6, F7
theorem test_seByte_equal : runs (regs [(5, 0x42)]) 0x3542 (okAt · 0x204) = true := by decide
theorem test_seByte_differs : runs (regs [(5, 0x41)]) 0x3542 (okAt · 0x202) = true := by decide
-- F8, F9
theorem test_sneByte_equal : runs (regs [(5, 0x42)]) 0x4542 (okAt · 0x202) = true := by decide
theorem test_sneByte_differs : runs (regs [(5, 0x41)]) 0x4542 (okAt · 0x204) = true := by decide
-- F11, F12
theorem test_seReg_equal : runs (regs [(1, 9), (2, 9)]) 0x512F (okAt · 0x204) = true := by decide
theorem test_seReg_differs : runs (regs [(1, 9), (2, 8)]) 0x5120 (okAt · 0x202) = true := by decide
-- F14, F15
theorem test_sneReg_differs : runs (regs [(1, 9), (2, 8)]) 0x9120 (okAt · 0x204) = true := by decide
theorem test_sneReg_same : runs (regs [(1, 9)]) 0x9110 (okAt · 0x202) = true := by decide
-- F16, F17
theorem test_jpV0 : runs (regs [(0, 0x10)]) 0xB300 (okAt · 0x310) = true := by decide
theorem test_jpV0_top : runs (regs [(0, 0xFF)]) 0xBFFF (okAt · 0x10FE) = true := by decide

/-! ## Registers and the ALU (A vectors) -/

-- A35, A36
theorem test_ldByte : runs State.reset 0x6C42 (has · 0xC 0x42) = true := by decide
theorem test_ldByte_vf : runs State.reset 0x6FAA (has · 0xF 0xAA) = true := by decide
-- A37, A38
theorem test_addByte : runs (regs [(0, 0x01), (0xF, 0x07)]) 0x70FF
    (fun t => has t 0 0x00 && has t 0xF 0x07) = true := by decide
theorem test_addByte_vf : runs (regs [(0xF, 0xFF)]) 0x7F01 (has · 0xF 0x00) = true := by decide
-- A34
theorem test_ldReg : runs (regs [(2, 0x5C)]) 0x8120
    (fun t => has t 1 0x5C && has t 2 0x5C) = true := by decide
-- A30, A31, A32
theorem test_or : runs (regs [(1, 0xF0), (2, 0x0C), (0xF, 0x55)]) 0x8121
    (fun t => has t 1 0xFC && has t 0xF 0x55) = true := by decide
theorem test_and : runs (regs [(1, 0xF6), (2, 0x3C), (0xF, 0x55)]) 0x8122
    (fun t => has t 1 0x34 && has t 0xF 0x55) = true := by decide
theorem test_xor : runs (regs [(1, 0xF6), (2, 0x3C), (0xF, 0x55)]) 0x8123
    (fun t => has t 1 0xCA && has t 0xF 0x55) = true := by decide
-- A1, A6
theorem test_addReg : runs (regs [(0, 0xFF), (1, 0x01)]) 0x8014
    (fun t => has t 0 0x00 && has t 0xF 0x01) = true := by decide
theorem test_addReg_vf : runs (regs [(0xF, 0xF0), (1, 0x20)]) 0x8F14 (has · 0xF 0x01) = true := by
  decide
-- A10, A14
theorem test_sub : runs (regs [(2, 0x03), (3, 0x05), (0xF, 1)]) 0x8235
    (fun t => has t 2 0xFE && has t 0xF 0x00) = true := by decide
theorem test_sub_vf : runs (regs [(0xF, 0x09), (3, 0x04)]) 0x8F35 (has · 0xF 0x01) = true := by
  decide
-- A22, A24
theorem test_shr : runs (regs [(4, 0xFE), (5, 0x01), (0xF, 1)]) 0x8456
    (fun t => has t 4 0x7F && has t 0xF 0x00 && has t 5 0x01) = true := by decide
theorem test_shr_vf : runs (regs [(0xF, 0x02)]) 0x8F06 (has · 0xF 0x00) = true := by decide
-- A15, A18
theorem test_subn : runs (regs [(2, 0x03), (3, 0x05)]) 0x8237
    (fun t => has t 2 0x02 && has t 0xF 0x01) = true := by decide
theorem test_subn_borrow : runs (regs [(2, 0xFF), (0xF, 1)]) 0x8237
    (fun t => has t 2 0x01 && has t 0xF 0x00) = true := by decide
-- A28, A29
theorem test_shl : runs (regs [(4, 0x01), (5, 0x80), (0xF, 1)]) 0x845E
    (fun t => has t 4 0x02 && has t 0xF 0x00 && has t 5 0x80) = true := by decide
theorem test_shl_vf : runs (regs [(0xF, 0x81)]) 0x8F0E (has · 0xF 0x01) = true := by decide
-- A39, A41
theorem test_rnd : runs (State.reset.setRnd 0xB7) 0xC30F (has · 3 0x07) = true := by decide
theorem test_rnd_all : runs (State.reset.setRnd 0xB7) 0xC3FF (has · 3 0xB7) = true := by decide

/-! ## Index and memory (M vectors) -/

-- M1
theorem test_ldI : runs State.reset 0xAFFF (fun t => t.i == 0x0FFF) = true := by decide
-- M3, M4
theorem test_addIVx : runs ((regs [(2, 0x01), (0xF, 0x09)]).setI 0x0FFF) 0xF21E
    (fun t => t.i == 0x1000 && has t 0xF 0x09) = true := by decide
theorem test_addIVx_wraps : runs ((regs [(2, 0x20)]).setI 0xFFF0) 0xF21E
    (fun t => t.i == 0x0010) = true := by decide
-- M16, M17
theorem test_ldFVx : runs (regs [(3, 0x0A)]) 0xF329 (fun t => t.i == 0x0032) = true := by decide
theorem test_ldFVx_top : runs (regs [(3, 0x0F)]) 0xF329 (fun t => t.i == 0x004B) = true := by decide
-- M7, M8
theorem test_ldBVx : runs ((regs [(0, 0xFF)]).setI 0xFFD) 0xF033
    (fun t => okAt t 0x202 && holds t 0xFFD [2, 5, 5]) = true := by decide
theorem test_ldBVx_fault : runs ((regs [(0, 0xFF)]).setI 0xFFE) 0xF033
    (fun t => t.cause == some (.addressOutOfRange 0x1000) && t.pc == 0x202) = true := by decide
-- M9, M12
theorem test_ldMemVx : runs ((regs [(0, 0x11), (1, 0x22), (2, 0x33), (3, 0x44)]).setI 0x400) 0xF255
    (fun t => holds t 0x400 [0x11, 0x22, 0x33, 0x00] && t.i == 0x400) = true := by decide
theorem test_ldMemVx_fault : runs (State.reset.setI 0xFF1) 0xFF55
    (fun t => t.cause == some (.addressOutOfRange 0x1000) && t.pc == 0x202) = true := by decide
-- M13, M15
theorem test_ldVxMem : runs (regs [(4, 0x99)]) 0xF365
    (fun t => t.v.toList.take 5 == [0xF0, 0x90, 0x90, 0x90, 0x99] && t.i == 0) = true := by decide
theorem test_ldVxMem_fault : runs (State.reset.setI 0x1000) 0xF065
    (fun t => t.cause == some (.addressOutOfRange 0x1000)) = true := by decide

/-! ## Display (G vectors) -/

-- G6
theorem test_cls : runs (State.reset.setFb (lit [(0, 0), (63, 31)])) 0x00E0
    (fun t => t.fb == 0) = true := by decide +kernel
-- G1, its first draw
theorem test_drw_wraps :
    runs ((bytesAt (regs [(0, 0x3F), (1, 0x1F)]) 0x300 [0xFF]).setI 0x300) 0xD011
      (fun t => t.fb == lit [(63, 31), (0, 31), (1, 31), (2, 31), (3, 31), (4, 31), (5, 31),
        (6, 31)] && has t 0xF 0) = true := by decide +kernel
-- G3, its second draw: one pixel erased, one lit
theorem test_drw_collides :
    runs ((bytesAt (State.reset.setFb (lit [(0, 0), (1, 0)])) 0x301 [0x60]).setI 0x301) 0xD011
      (fun t => t.fb == lit [(0, 0), (2, 0)] && has t 0xF 1) = true := by decide +kernel

/-! ## Keypad and timers (K vectors) -/

-- K1, K2
theorem test_skp : runs ((regs [(5, 0x07)]).setKey 7 true) 0xE59E (okAt · 0x204) = true := by decide
theorem test_skp_other_key : runs ((regs [(5, 0x07)]).setKey 5 true) 0xE59E (okAt · 0x202) = true := by
  decide
-- K3, K4
theorem test_sknp : runs (regs [(5, 0x07)]) 0xE5A1 (okAt · 0x204) = true := by decide
theorem test_sknp_pressed : runs ((regs [(5, 0x07)]).setKey 7 true) 0xE5A1 (okAt · 0x202) = true := by
  decide
-- K7; K9, its first step
theorem test_ldVxK : runs ((State.reset.setKey 9 true).setKey 7 true) 0xF10A
    (fun t => okAt t 0x202 && has t 1 0x07) = true := by decide
theorem test_ldVxK_stalls : runs ((State.reset.setDt 3).setSt 1) 0xF10A
    (fun t => okAt t 0x200 && t.dt == 2 && t.st == 0) = true := by decide
-- K10, K11
theorem test_ldVxDt : runs (State.reset.setDt 9) 0xF207
    (fun t => has t 2 8 && t.dt == 8) = true := by decide
theorem test_ldVxDt_floor : runs State.reset 0xF207 (fun t => has t 2 0 && t.dt == 0) = true := by
  decide
-- K12
theorem test_ldDtVx : runs ((regs [(0, 0x0A)]).setDt 3) 0xF015 (fun t => t.dt == 0x0A) = true := by
  decide
-- K13, its first step
theorem test_ldStVx : runs (regs [(3, 0x02)]) 0xF318 (fun t => t.st == 2) = true := by decide

/-! ## The step, faults, reset, the host (X and T vectors) -/

-- X1, its third step: PC and DT as before
theorem test_invalid_opcode : runs ((State.reset.setPc 0x204).setDt 5) 0x8008
    (fun t => t.cause == some (.invalidOpcode 0x8008) && t.pc == 0x204 && t.dt == 5 &&
      t.faultPort == (true, some (1, some 0x8008))) = true := by decide
-- X2
theorem test_halted_step :
    stops (step (State.reset.raise (.invalidOpcode 0x8008))) (.invalidOpcode 0x8008) = true := by decide
-- X6: the timer has ticked and PC has advanced before the fault of the dispatch
theorem test_stack_underflow : runs (State.reset.setDt 5) 0x00EE
    (fun t => t.cause == some .stackUnderflow && t.dt == 4 && t.pc == 0x202 &&
      t.faultPort == (true, some (4, none))) = true := by decide
-- P5, its step 17
theorem test_stack_overflow : runs (State.reset.setStack (Vector.replicate 16 0x202) 16) 0x2200
    (fun t => t.cause == some .stackOverflow && t.pc == 0x202 && t.sp == 16 &&
      t.stack == Vector.replicate 16 0x202) = true := by decide
-- X4, its second and third steps; X5; F17
theorem test_fetch_last_word : runs (State.reset.setPc 0xFFE) 0x6007
    (fun t => okAt t 0x1000 && has t 0 7) = true := by decide
theorem test_fetch_beyond : ends (step (State.reset.setPc 0xFFF))
    (fun t => t.cause == some (.addressOutOfRange 0x1000) && t.pc == 0xFFF) = true := by decide
theorem test_fetch_far_beyond : ends (step (State.reset.setPc 0x10FE))
    (fun t => t.cause == some (.addressOutOfRange 0x10FE)) = true := by decide
-- G8, G9, G10: the bounds check of the sprite
theorem test_drw_fault : runs ((State.reset.setI 0xFFC).setFb (lit [(0, 0)])) 0xD015
    (fun t => t.cause == some (.addressOutOfRange 0x1000) && t.fb == lit [(0, 0)] &&
      t.pc == 0x202) = true := by decide +kernel
theorem test_drw_empty_at_top : runs (State.reset.setI 0x1000) 0xD010 (okAt · 0x202) = true := by
  decide
theorem test_drw_empty_beyond : runs (State.reset.setI 0x1001) 0xD010
    (fun t => t.cause == some (.addressOutOfRange 0x1001)) = true := by decide
-- T-RESET-2, its first step: the reset memory decodes to a machine call
theorem test_first_step_from_reset : ends (step State.reset) (okAt · 0x202) = true := by decide
-- T-RESET-3
theorem test_host_reset : ends (hostMove .reset
      (bytesAt (State.reset.raise (.invalidOpcode 0x8008)) 0x200 [0x60, 0x05]))
    (fun t => okAt t 0x200 && holds t 0x200 [0x00, 0x00]) = true := by decide
-- T-LOAD-3, T-LOAD-2
theorem test_host_load : ends (hostMove (.load [0x60]) (bytesAt State.reset 0x200 [0x12, 0x34]))
    (fun t => holds t 0x200 [0x60, 0x34]) = true := by decide
theorem test_host_load_refused : stops (hostMove (.load (List.replicate 3585 0)) State.reset)
    (.addressOutOfRange 0x1000) = true := by decide +kernel
-- a word placed on a halted engine runs as its next step (log 17)
theorem test_placed_word_runs : runs (State.reset.raise .stackUnderflow) 0x6C42
    (fun t => okAt t 0x202 && has t 0xC 0x42) = true := by decide

/-! ## Witnesses: for each statement with hypotheses, concrete values that meet all of them, one for
each clause, at the boundaries -/

/-- The reset state with `n` entries on the call stack. -/
def depth (n : Fin 17) : State := State.reset.setStack (Vector.replicate 16 0x202) n

theorem witness_DecodeOfEncodeIsTheInstruction :
    (Instr.sys 0x0EF).wellFormed = true ∧ (Instr.sys 0x0DF).wellFormed = true ∧
      (Instr.drw 0xF 0xF 0xF).wellFormed = true := by decide

theorem witness_DecodedWordMatchesItsTableRow :
    decode 0x00E1 = .ok (.sys 0x0E1) ∧ decode 0x5AB7 = .ok (.seReg 0xA 0xB) := by decide

theorem witness_InvalidOpcodesAreExactlyTheListedOnes :
    decode 0x800F = .error (.invalidOpcode 0x800F) := by decide

theorem witness_IgnoredBitsDoNotMatter :
    (0x0E1 : Addr) ≠ 0x0E0 ∧ (0x0E1 : Addr) ≠ 0x0EE := by decide

theorem witness_ReturnPopsTheTopEntry :
    (depth 1).sp.val ≠ 0 ∧ (depth 16).sp.val ≠ 0 ∧ (depth 0).sp.val = 0 := by decide

theorem witness_CallPushesTheReturnAddress :
    (depth 0).sp.val < 16 ∧ (depth 15).sp.val < 16 ∧ (depth 16).sp.val = 16 ∧
      (0 : Fin 16).val ≠ (depth 15).sp.val := by decide

theorem witness_ReturnUndoesCall : (depth 15).sp.val < 16 := by decide

/-- The reset state at a subroutine entered once: `2400` at 0x300, whose subroutine is `00EE`. -/
def inSubroutine : State :=
  bytesAt (bytesAt ((depth 1).setPc 0x300) 0x300 [0x24, 0x00]) 0x400 [0x00, 0xEE]

/-- The run inside a subroutine takes in a nested call and its return, back at the same depth. -/
theorem witness_ReturnUndoesCall_nested :
    ∃ u, RunsWithin 1 inSubroutine u ∧ u.sp = inSubroutine.sp ∧ u.pc = 0x302 :=
  ⟨_, .more (.more (.start _ (by decide)) rfl (by decide)) rfl (by decide), by decide, by decide⟩

theorem witness_SixteenNestedCallsSucceed :
    State.reset.sp.val = 0 ∧ State.reset.cause = none := by decide

theorem witness_AddStoresSumThenCarry : (0xE : Nibble) ≠ vf := by decide

theorem witness_OnlyNamedRegistersAndTheFlagChange :
    ∃ t, exec (.addReg 0 1) State.reset = .next t ∧ namesDest (.addReg 0 1) 0xE = false ∧
      (0xE : Nibble) ≠ vf := ⟨_, rfl, by decide⟩

theorem witness_OnlyNamedRegistersAndTheFlagChange_vf :
    ∃ t, exec (.addByte 0 1) State.reset = .next t ∧ namesDest (.addByte 0 1) vf = false ∧
      writesFlag (.addByte 0 1) = false := ⟨_, rfl, by decide⟩

theorem witness_FontAddressIsFiveTimesTheDigit : ((regs [(3, 15)]).getV 3).toNat ≤ 15 := by decide

theorem witness_FontAddressAboveFifteenWritesOnlyI : 15 < ((regs [(3, 16)]).getV 3).toNat := by
  decide

theorem reset_mem_wf : State.reset.mem.wf := by decide

theorem witness_BcdStoreWritesThreeDigits :
    (State.reset.setI 0xFFD).mem.wf ∧ (State.reset.setI 0xFFD).i.toNat + 2 < 4096 ∧
      4096 ≤ (State.reset.setI 0xFFE).i.toNat + 2 := ⟨reset_mem_wf, by decide⟩

theorem witness_BlockStoreWritesV0ToVx :
    (State.reset.setI 0xFF0).mem.wf ∧ (State.reset.setI 0xFF0).i.toNat + (0xF : Nibble).toNat < 4096 ∧
      4096 ≤ (State.reset.setI 0xFF1).i.toNat + (0xF : Nibble).toNat ∧
      (0xF : Nibble).toNat ≤ (0xF : Nibble).toNat := ⟨reset_mem_wf, by decide⟩

theorem witness_BlockLoadReadsV0ToVx :
    (State.reset.setI 0xFFF).i.toNat + (0 : Nibble).toNat < 4096 ∧
      4096 ≤ (State.reset.setI 0x1000).i.toNat + (0 : Nibble).toNat ∧
      (0 : Nibble).toNat < (1 : Nibble).toNat := by decide

theorem witness_OnlyTheTwoStoresWriteMemory :
    ∃ t, exec (.ldVxMem 3) State.reset = .next t ∧ (∀ x, Instr.ldVxMem 3 ≠ .ldBVx x) ∧
      ∀ x, Instr.ldVxMem 3 ≠ .ldMemVx x := ⟨_, rfl, by simp, by simp⟩

theorem witness_StoreIsSeenByTheNextFetch :
    (State.reset.setI 0x200).mem.wf ∧ (State.reset.setI 0x200).i = (State.reset.setI 0x200).pc ∧
      1 ≤ (1 : Nibble).toNat ∧ (State.reset.setI 0x200).i.toNat + (1 : Nibble).toNat < 4096 :=
  ⟨reset_mem_wf, by decide⟩

theorem witness_MemoryAccessIsCheckedAndExact :
    State.reset.mem.wf ∧ 4096 ≤ 4096 ∧ 4095 < 4096 ∧ 0 ≠ 4095 := ⟨reset_mem_wf, by decide⟩

theorem witness_ClearTurnsEveryPixelOff : 63 < 64 ∧ 31 < 32 := by decide

theorem witness_DrawXorsTheSpriteAndReportsCollision :
    (State.reset.setI 0xFFB).i.toNat + (5 : Nibble).toNat ≤ 4096 ∧ 4 < (5 : Nibble).toNat ∧ 7 < 8 := by
  decide

/-- Glyph 0 of the font on a pixel that is on. -/
theorem witness_DrawXorsTheSpriteAndReportsCollision_collides :
    0 < (1 : Nibble).toNat ∧ 0 < 8 ∧ spriteBitAt State.reset 0 0 = true ∧
      pixel (State.reset.setFb 1).fb 0 0 = true := by decide +kernel

theorem witness_DrawXorsTheSpriteAndReportsCollision_no_collision :
    ¬ ∃ i j : Nat, i < (1 : Nibble).toNat ∧ j < 8 ∧ spriteBitAt State.reset i j = true ∧
      pixel State.reset.fb (((State.reset.getV 0).toNat + j) % 64)
        (((State.reset.getV 0).toNat + i) % 32) = true := by
  rintro ⟨i, j, -, -, -, h⟩; simp [pixel, State.reset] at h

/-- A pixel no sprite bit of a one-row sprite at the origin falls on. -/
theorem witness_DrawXorsTheSpriteAndReportsCollision_kept :
    ∀ i j : Nat, i < (1 : Nibble).toNat → j < 8 → ¬ (8 = ((State.reset.getV 0).toNat + j) % 64 ∧
      0 = ((State.reset.getV 0).toNat + i) % 32) := by
  intro i j _ hj h
  have : (State.reset.getV 0).toNat = 0 := by decide
  omega

theorem witness_DrawChecksItsBoundsFirst :
    4096 < (State.reset.setI 0xFFC).i.toNat + (5 : Nibble).toNat ∧
      4096 < (State.reset.setI 0x1001).i.toNat + (0 : Nibble).toNat := by decide

theorem witness_DrawingTwiceErasesAndCollides :
    State.reset.i.toNat + (5 : Nibble).toNat ≤ 4096 ∧
      (∃ i j : Nat, i < (5 : Nibble).toNat ∧ j < 8 ∧ spriteBitAt State.reset i j = true) ∧
      (∀ i j : Nat, i < (5 : Nibble).toNat → j < 8 →
        pixel State.reset.fb (((State.reset.getV 0).toNat + j) % 64)
          (((State.reset.getV 1).toNat + i) % 32) = false) ∧
      ∃ t, exec (.drw 0 1 5) State.reset = .next t ∧ t.getV 0 = State.reset.getV 0 ∧
        t.getV 1 = State.reset.getV 1 := by
  refine ⟨by decide, ⟨0, 0, by decide, by decide, by decide⟩, fun i j _ _ => ?_, _, rfl, ?_, ?_⟩
  · simp [pixel, State.reset]
  · decide +kernel
  · decide +kernel

theorem witness_KeySkipsReadTheSnapshot : ((regs [(5, 15)]).getV 5).toNat ≤ 15 := by decide

theorem witness_KeySkipsAboveFifteenAreComplementary : 15 < ((regs [(5, 16)]).getV 5).toNat := by
  decide

theorem witness_WaitForKeyTakesTheLowestOrReissues :
    15 < 16 ∧ (State.reset.setKey 15 true).key.getLsbD 15 = true ∧
      (∀ j < 15, (State.reset.setKey 15 true).key.getLsbD j = false) ∧
      ∀ k < 16, State.reset.key.getLsbD k = false := by decide

theorem witness_StepRunsTheDecodedInstruction :
    (State.reset.setPc 4094).cause = none ∧ (State.reset.setPc 4094).pc.toNat < 4095 ∧
      decode (wordOfBytes ((State.reset.setPc 4094).mem.peek 4094)
        ((State.reset.setPc 4094).mem.peek 4095)) = .ok (.sys 0) := by decide

theorem witness_FetchBeyondMemoryHalts :
    (State.reset.setPc 4095).cause = none ∧ 4095 ≤ (State.reset.setPc 4095).pc.toNat := by decide

/-- The reset state with `8008` at PC. -/
theorem witness_InvalidOpcodeHaltsBeforeTheAdvance :
    (State.reset.withFetchWord 16 0x8008).cause = none ∧
      (State.reset.withFetchWord 16 0x8008).fetch = .ok 0x8008 ∧
      decode 0x8008 = .error (.invalidOpcode 0x8008) := by decide

theorem witness_HaltedEngineRepeatsItsFault :
    (State.reset.raise .stackOverflow).cause = some .stackOverflow := by decide

theorem witness_EveryRunningStepCompletes : State.reset.cause = none := by decide

theorem witness_TimersTickInEveryDispatchingStep :
    State.reset.cause = none ∧ State.reset.fetch = .ok 0 ∧ decode 0 = .ok (.sys 0) ∧
      (∀ x, Instr.sys 0 ≠ .ldDtVx x) ∧ ∀ x, Instr.sys 0 ≠ .ldStVx x := by decide

theorem witness_OnlyTheListedInstructionsWritePc :
    ∃ t, exec (.drw 0 1 5) State.reset = .next t ∧ writesPc (.drw 0 1 5) = false := ⟨_, rfl, rfl⟩

theorem witness_SpecialRegistersHaveTheirWriters :
    ∃ t, exec (.sys 0) State.reset = .next t ∧ (∀ n, Instr.sys 0 ≠ .ldI n) ∧
      (∀ x, Instr.sys 0 ≠ .addIVx x) ∧ (∀ x, Instr.sys 0 ≠ .ldFVx x) ∧
      (∀ x, Instr.sys 0 ≠ .ldDtVx x) ∧ (∀ x, Instr.sys 0 ≠ .ldStVx x) ∧
      (∀ n, Instr.sys 0 ≠ .call n) ∧ Instr.sys 0 ≠ .ret ∧ Instr.sys 0 ≠ .cls ∧
      ∀ x y n, Instr.sys 0 ≠ .drw x y n :=
  ⟨_, rfl, by simp, by simp, by simp, by simp, by simp, by simp, by simp, by simp, by simp⟩

/-- A step that raises. -/
theorem witness_EachInstructionRaisesOneKind :
    ∃ t, exec (.call 0) (depth 16) = .next t ∧ t.cause = some .stackOverflow := ⟨_, rfl, rfl⟩

theorem witness_RegisterOutOfRangeIsNeverRaised : ∃ t, step State.reset = .next t :=
  ⟨State.reset.dispatchState, rfl⟩

theorem witness_EveryStepKeepsTheInvariant :
    Inv State.reset ∧ ∃ t, step State.reset = .next t :=
  ⟨⟨reset_mem_wf, by decide, by decide⟩, State.reset.dispatchState, rfl⟩

theorem witness_EveryHostMoveKeepsTheInvariant :
    Inv State.reset ∧ ∃ t, hostMove (.load [0x60]) State.reset = .next t :=
  ⟨⟨reset_mem_wf, by decide, by decide⟩, _, rfl⟩

theorem witness_ResetLeavesTheTableOfValues : 63 < 64 ∧ 31 < 32 ∧ 0x50 ≤ 0x50 ∧ 4095 < 4096 := by
  decide

theorem witness_LoadStoresTheProgramOrIsRefused :
    State.reset.mem.wf ∧ (List.replicate 3584 (0xAA : Byte)).length ≤ 3584 ∧
      3584 < (List.replicate 3585 (0xAA : Byte)).length :=
  ⟨reset_mem_wf, by rw [List.length_replicate], by rw [List.length_replicate]; omega⟩

theorem witness_PortsCarryTheirValues :
    State.reset.cause = none ∧
      (State.reset.raise (.invalidOpcode 0xFFFF)).cause = some (.invalidOpcode 0xFFFF) ∧
      (State.reset.raise (.registerOutOfRange 16)).cause = some (.registerOutOfRange 16) ∧
      (State.reset.raise .stackOverflow).cause = some .stackOverflow ∧
      (State.reset.raise .stackUnderflow).cause = some .stackUnderflow ∧
      (State.reset.raise (.addressOutOfRange 4096)).cause = some (.addressOutOfRange 4096) ∧
      63 < 64 ∧ 31 < 32 := by decide

theorem witness_SetKeyChangesOneKey : 14 ≠ (0xF : Nibble).toNat := by decide

/-- `1FFE` at 0xFFE: a jump to itself at the highest address a fetch may have. -/
theorem witness_EndOfRunIsAFixedPoint :
    EndOfRun ((State.reset.setPc 0xFFE).withFetchWord 16 0x1FFE) := by decide

/-- `F10A` at PC with no key pressed. -/
theorem witness_StalledKeyWaitChangesOnlyTheTimers :
    (State.reset.withFetchWord 16 0xF10A).cause = none ∧
      (State.reset.withFetchWord 16 0xF10A).fetch = .ok 0xF10A ∧
      decode 0xF10A = .ok (.ldVxK 1) ∧ (State.reset.withFetchWord 16 0xF10A).key = 0 ∧
      (State.reset.withFetchWord 16 0xF10A).dt = 0 ∧ (State.reset.withFetchWord 16 0xF10A).st = 0 := by
  decide

end Sys2Proof.Tests
end

section
/-! PROOFS. The family 10_state.md: which registers an instruction writes, what reset leaves, and what
crosses the boundary. -/

namespace Sys2Proof.Machine

section Frames

/-! What an instruction with more than one case leaves unchanged, whichever case it takes. -/

variable {s t : State} {x y n : Nibble}

/-- The two stores write memory, and when they raise CAUSE and the model's draw counter. -/
theorem State.storeAtI_frame {bytes : List Byte} (h : s.storeAtI bytes = .next t) :
    t.v = s.v ∧ t.pc = s.pc ∧ SpecialsKept { s with cause := t.cause, draws := t.draws } t := by
  rcases s.storeAtI_cases bytes with ⟨_, hs⟩ | ⟨_, hs⟩ <;>
    (rw [hs] at h; cases h; simp [SpecialsKept])

/-- The block load writes V[0..X], and when it raises CAUSE and the model's draw counter. -/
theorem State.loadFromI_frame (h : s.loadFromI x = .next t) :
    (∀ r : Nibble, x.toNat < r.toNat → t.getV r = s.getV r) ∧ t.mem = s.mem ∧ t.pc = s.pc ∧
      SpecialsKept { s with cause := t.cause, draws := t.draws } t := by
  rcases s.loadFromI_cases x with ⟨_, hl⟩ | ⟨_, hl⟩ <;> (rw [hl] at h; cases h)
  · refine ⟨fun r hr => ?_, by simp [SpecialsKept]⟩
    rw [State.getV_setRegs_loaded, if_neg (by omega)]
  · refine ⟨fun r hr => ?_, by simp [SpecialsKept]⟩
    calc _ = (s.setRegs (s.forgottenRegs x)).getV r := State.getV_congr rfl r
      _ = s.getV r := by rw [State.getV_setRegs_forgotten, if_neg (by omega)]

/-- RET writes PC and SP, or CAUSE. -/
theorem execRet_frame (h : exec .ret s = .next t) :
    t.v = s.v ∧ t.mem = s.mem ∧ SpecialsKept { s with sp := t.sp, cause := t.cause } t := by
  rcases execRet_cases s with ⟨_, hr⟩ | ⟨_, hr⟩ <;> (rw [hr] at h; cases h; simp [SpecialsKept])

/-- CALL writes PC, the stack and SP, or CAUSE. -/
theorem execCall_frame {nnn : Addr} (h : exec (.call nnn) s = .next t) :
    t.v = s.v ∧ t.mem = s.mem ∧
      SpecialsKept { s with stack := t.stack, sp := t.sp, cause := t.cause } t := by
  rcases execCall_cases nnn s with ⟨_, hc⟩ | ⟨_, hc⟩ <;>
    (rw [hc] at h; cases h; simp [SpecialsKept])

/-- DRW writes the framebuffer and VF, or CAUSE. -/
theorem execDrw_frame (h : exec (.drw x y n) s = .next t) :
    RegsKeptBut [vf] s t ∧ t.mem = s.mem ∧ t.pc = s.pc ∧
      SpecialsKept { s with fb := t.fb, cause := t.cause } t := by
  rcases execDrw_cases x y n s with ⟨_, hd⟩ | ⟨_, hd⟩ <;> (rw [hd] at h; cases h)
  · refine ⟨fun r hr => ?_, by simp [SpecialsKept]⟩
    rw [State.getV_setV_ne _ (by simpa using hr)]
    exact State.getV_congr rfl r
  · exact ⟨fun r _ => State.getV_congr rfl r, by simp [SpecialsKept]⟩

/-- The wait for a key writes V[X] or PC. -/
theorem execLdVxK_frame (h : exec (.ldVxK x) s = .next t) :
    RegsKeptBut [x] s t ∧ t.mem = s.mem ∧ SpecialsKept s t := by
  rcases execLdVxK_cases x s with ⟨_, _, hk⟩ | ⟨_, hk⟩ <;> (rw [hk] at h; cases h)
  · exact ⟨fun r hr => State.getV_setV_ne s (by simpa using hr) _, by simp [SpecialsKept]⟩
  · exact ⟨fun r _ => State.getV_congr rfl r, by simp [SpecialsKept]⟩

end Frames

/-- Settles O22: the instructions that write a register write the one they name, the flag writers VF
besides, and the others leave the register file alone. -/
theorem onlyNamedRegistersAndTheFlagChange : Obligations.OnlyNamedRegistersAndTheFlagChange := by
  unfold Obligations.OnlyNamedRegistersAndTheFlagChange
  intro i s t y he hd hf
  cases i
  case ret => exact State.getV_congr (execRet_frame he).1 y
  case call => exact State.getV_congr (execCall_frame he).1 y
  case ldBVx | ldMemVx => exact State.getV_congr (State.storeAtI_frame he).1 y
  case ldVxMem => exact (State.loadFromI_frame he).1 y (by simpa [namesDest] using hd)
  case drw => exact (execDrw_frame he).1 y (by simpa [writesFlag] using hf)
  case ldVxK => exact (execLdVxK_frame he).1 y (by simpa [namesDest] using hd)
  case addReg | sub | shr | subn | shl =>
    have hvf : y ≠ vf := by simpa [writesFlag] using hf
    cases he
    rw [State.getV_setResultThenFlag, if_neg hvf, if_neg (by simpa [namesDest] using hd)]
  case ldByte | addByte | ldReg | or | and | xor | ldVxDt =>
    cases he
    exact State.getV_setV_ne s (by simpa [namesDest] using hd) _
  case rnd x kk =>
    cases he
    calc _ = (s.setV x (s.rnd &&& kk)).getV y := State.getV_congr rfl y
      _ = s.getV y := State.getV_setV_ne s (by simpa [namesDest] using hd) _
  case seByte | sneByte | seReg | sneReg | skp | sknp =>
    cases he
    exact State.getV_congr (by simp [State.skipIf_eq]) y
  all_goals
    cases he
    exact State.getV_congr rfl y

/-- Settles O48: the instructions with more than one case by their frames, the others by the one update
each makes. -/
theorem specialRegistersHaveTheirWriters : Obligations.SpecialRegistersHaveTheirWriters := by
  unfold Obligations.SpecialRegistersHaveTheirWriters
  intro i s t he
  cases i
  case ret =>
    obtain ⟨-, -, hi, hdt, hst, hstack, -, hfb, -, hkey, -⟩ := execRet_frame he
    simp [hi, hdt, hst, hstack, hfb, hkey]
  case call =>
    obtain ⟨-, -, hi, hdt, hst, -, -, hfb, -, hkey, -⟩ := execCall_frame he
    simp [hi, hdt, hst, hfb, hkey]
  case drw =>
    obtain ⟨-, -, -, hi, hdt, hst, hstack, hsp, -, -, hkey, -⟩ := execDrw_frame he
    simp [hi, hdt, hst, hstack, hsp, hkey]
  case ldVxK =>
    obtain ⟨-, -, hi, hdt, hst, hstack, hsp, hfb, -, hkey, -⟩ := execLdVxK_frame he
    simp [hi, hdt, hst, hstack, hsp, hfb, hkey]
  case ldBVx | ldMemVx =>
    obtain ⟨-, -, hi, hdt, hst, hstack, hsp, hfb, -, hkey, -⟩ := State.storeAtI_frame he
    simp [hi, hdt, hst, hstack, hsp, hfb, hkey]
  case ldVxMem =>
    obtain ⟨-, -, -, hi, hdt, hst, hstack, hsp, hfb, -, hkey, -⟩ := State.loadFromI_frame he
    simp [hi, hdt, hst, hstack, hsp, hfb, hkey]
  all_goals
    cases he
    simp [State.skipIf_eq, State.setResultThenFlag]

/-- Memory beyond the font reads zero after reset (10_state.md R35). -/
theorem Memory.resetByte_of_font_end_le {a : Nat} (h : 0x50 ≤ a) : Memory.resetByte a = 0 :=
  List.getD_eq_default _ _ h

/-- A byte of the space after reset (20_memory.md R52). -/
theorem reset_read {a : Nat} (h : a < 4096) :
    State.reset.mem.read a = .ok (Memory.resetByte a) := by
  rw [Memory.read_eq, if_pos h]
  rfl

/-- Settles O54: the registers and the font by evaluation, the pixels and the rest of memory at every
index. -/
theorem resetLeavesTheTableOfValues : Obligations.ResetLeavesTheTableOfValues := by
  unfold Obligations.ResetLeavesTheTableOfValues
  refine ⟨rfl, by decide, rfl, rfl, rfl, rfl, by decide, rfl, fun px py _ _ => ?_,
    fun a ha ha' => ?_, by decide⟩
  · simp [pixel, State.reset]
  · rw [reset_read ha', Memory.resetByte_of_font_end_le ha]

/-- The port of a running engine (10_state.md R34). -/
theorem State.faultPort_of_running {s : State} (h : s.cause = none) :
    s.faultPort = (false, none) := by
  simp [State.faultPort, State.halted, h]

/-- The port of a halted engine gives the code and the value its fatal condition records
(60_exceptions.md R230). -/
theorem State.faultPort_of_cause {s : State} {f : Fault} (h : s.cause = some f) :
    s.faultPort = (true, some (f.code, f.recorded)) := by
  simp [State.faultPort, State.halted, h]

/-- `snd` is set exactly while ST is not zero (D26). -/
theorem State.snd_iff (s : State) : s.snd = true ↔ s.st ≠ 0 := bne_iff_ne

/-- Supplying a byte writes RND alone (70_reset_and_hazards.md R266, log 26). -/
theorem State.setRnd_frame (s : State) (b : Byte) :
    RegsKeptBut [] s (s.setRnd b) ∧ MemoryKept s (s.setRnd b) ∧
      SpecialsKept { s with rnd := b } (s.setRnd b) ∧ (s.setRnd b).pc = s.pc :=
  ⟨fun r _ => State.getV_congr rfl r, fun _ => rfl, by simp [SpecialsKept], rfl⟩

/-- `Cxkk` leaves the byte on the port, masked, in V[X] (42_alu.md R151). -/
theorem execRnd_masks (x : Nibble) (kk : Byte) (s : State) :
    ∃ t, exec (.rnd x kk) s = .next t ∧ t.getV x = s.rnd &&& kk :=
  ⟨_, rfl, (State.getV_congr rfl x).trans (s.getV_setV_self x _)⟩

/-- Settles O60: each port by its lemma; a supplied byte stands on the port `Cxkk` reads. -/
theorem portsCarryTheirValues : Obligations.PortsCarryTheirValues := by
  unfold Obligations.PortsCarryTheirValues
  intro s
  refine ⟨State.faultPort_of_running, fun _ => State.faultPort_of_cause,
    fun _ => State.faultPort_of_cause, State.faultPort_of_cause, State.faultPort_of_cause,
    fun _ => State.faultPort_of_cause, fun _ _ _ _ => rfl, rfl, s.snd_iff, fun b x kk => ?_⟩
  obtain ⟨hregs, hmem, hspec, hpc⟩ := s.setRnd_frame b
  exact ⟨s.setRnd b, rfl, rfl, hregs, hmem, hspec, hpc, execRnd_masks x kk (s.setRnd b)⟩

end Sys2Proof.Machine
end

section
/-! PROOFS. The family 20_memory.md: which instructions write memory, what a byte access does, and
the address of a glyph. -/

namespace Sys2Proof.Machine

/-- A byte read in the space (20_memory.md R53). -/
theorem Memory.read_of_lt (m : Memory) {a : Nat} (h : a < 4096) : m.read a = .ok (m.peek a) := by
  rw [Memory.read_eq, if_pos h]

/-- A byte read outside the space (20_memory.md R53). -/
theorem Memory.read_of_le (m : Memory) {a : Nat} (h : 4096 ≤ a) :
    m.read a = .error (.addressOutOfRange a) := by
  rw [Memory.read_eq, if_neg (by omega)]

/-- A byte write in the space (20_memory.md R54). -/
theorem Memory.write_of_lt (m : Memory) {a : Nat} (b : Byte) (h : a < 4096) :
    m.write a b = .ok (m.poke a b) :=
  if_pos h

/-- A byte write outside the space (20_memory.md R54). -/
theorem Memory.write_of_le (m : Memory) {a : Nat} (b : Byte) (h : 4096 ≤ a) :
    m.write a b = .error (.addressOutOfRange a) :=
  if_neg (by simpa using h)

/-- The address written reads as the byte written (20_memory.md R54). -/
theorem Memory.read_poke_self {m : Memory} (hm : m.wf) {a : Nat} (b : Byte) (h : a < 4096) :
    (m.poke a b).read a = .ok b := by
  rw [Memory.read_of_lt _ h, Memory.peek_poke hm, if_pos ⟨rfl, h⟩]

/-- Any other address reads as it read (20_memory.md R54). -/
theorem Memory.read_poke_of_ne {m : Memory} (hm : m.wf) {a c : Nat} (b : Byte) (h : c ≠ a) :
    (m.poke a b).read c = m.read c := by
  simp only [Memory.read_eq, Memory.peek_poke hm, h, false_and, if_false]

/-- An instruction that leaves the cells alone leaves every read alone. -/
theorem MemoryKept.of_mem_eq {s t : State} (h : t.mem = s.mem) : MemoryKept s t :=
  fun a => by rw [h]

/-- Only the two stores change the cells of memory (20_memory.md R66). -/
theorem exec_mem_of_not_store {i : Instr} {s t : State} (he : exec i s = .next t)
    (hb : ∀ x, i ≠ .ldBVx x) (hm : ∀ x, i ≠ .ldMemVx x) : t.mem = s.mem := by
  cases i
  case ldBVx x => exact absurd rfl (hb x)
  case ldMemVx x => exact absurd rfl (hm x)
  case ret => exact (execRet_frame he).2.1
  case call => exact (execCall_frame he).2.1
  case drw => exact (execDrw_frame he).2.1
  case ldVxK => exact (execLdVxK_frame he).2.1
  case ldVxMem => exact (State.loadFromI_frame he).2.1
  case seByte | sneByte | seReg | sneReg | skp | sknp =>
    cases he
    simp [State.skipIf_eq]
  all_goals
    cases he
    rfl

/-- Settles O29: memory is one of the fields each instruction's frame keeps. -/
theorem onlyTheTwoStoresWriteMemory : Obligations.OnlyTheTwoStoresWriteMemory := by
  unfold Obligations.OnlyTheTwoStoresWriteMemory
  exact fun _ _ _ he hb hm => .of_mem_eq (exec_mem_of_not_store he hb hm)

/-- A store at I that fits (43_index_memory.md R173, R174). -/
theorem State.storeAtI_of_fits {s : State} {bytes : List Byte} (h : s.base + bytes.length ≤ 4096) :
    s.storeAtI bytes = .next (s.setMem (s.mem.pokeAll s.base bytes)) := by
  rcases s.storeAtI_cases bytes with ⟨-, hs⟩ | ⟨hout, -⟩
  · exact hs
  · exact absurd h (Nat.not_le.2 hout)

/-- A block transfer whose last address I + X is in the space fits (43_index_memory.md R174). -/
theorem State.regsUpTo_fits {s : State} {x : Nibble} (h : s.i.toNat + x.toNat < 4096) :
    s.base + (s.regsUpTo x).length ≤ 4096 := by
  rw [State.regsUpTo_length, State.base]
  exact h

/-- The byte a block store that fits leaves at I + k is V[k] (43_index_memory.md R174). -/
theorem State.peek_pokeAll_regsUpTo {s : State} (hm : s.mem.wf) {x y : Nibble}
    (h : s.i.toNat + x.toNat < 4096) (hy : y.toNat ≤ x.toNat) :
    (s.mem.pokeAll s.base (s.regsUpTo x)).peek (s.i.toNat + y.toNat) = s.getV y := by
  rw [Memory.peek_pokeAll hm _ _ (State.regsUpTo_fits h), State.base, if_pos (Nat.le_add_right _ _),
    Nat.add_sub_cancel_left, State.regsUpTo_getElem s x y hy, Option.getD_some]

/-- The fetch after a store reads the bytes stored (20_memory.md R63). -/
theorem State.fetch_setMem (s : State) (m : Memory) :
    (s.setMem m).fetch = m.readWord s.pc.toNat := rfl

/-- Settles O30: the two bytes the fetch at PC = I reads are V[0] and V[1]. -/
theorem storeIsSeenByTheNextFetch : Obligations.StoreIsSeenByTheNextFetch := by
  unfold Obligations.StoreIsSeenByTheNextFetch
  intro x s hm hi hx hfit
  have hi0 : (s.mem.pokeAll s.base (s.regsUpTo x)).peek s.i.toNat = s.getV 0 :=
    State.peek_pokeAll_regsUpTo (y := 0) hm hfit (Nat.zero_le _)
  have hi1 : (s.mem.pokeAll s.base (s.regsUpTo x)).peek (s.i.toNat + 1) = s.getV 1 :=
    State.peek_pokeAll_regsUpTo (y := 1) hm hfit hx
  have hpc : s.pc.toNat < 4095 := by rw [← hi]; omega
  refine ⟨_, State.storeAtI_of_fits (State.regsUpTo_fits hfit),
    wordOfBytes (s.getV 0) (s.getV 1), ?_, wordOfBytes_toNat _ _⟩
  rw [State.fetch_setMem, Memory.readWord_ok _ _ hpc, ← hi, hi0, hi1]

/-- Settles O31: each clause is the rule of the read or of the write. -/
theorem memoryAccessIsCheckedAndExact : Obligations.MemoryAccessIsCheckedAndExact := by
  unfold Obligations.MemoryAccessIsCheckedAndExact
  intro m a c b hm
  exact ⟨fun h => ⟨m.read_of_le h, m.write_of_le b h⟩,
    fun h => ⟨m.read_of_lt h, m.poke a b, m.write_of_lt b h, Memory.wf_poke hm a b,
      Memory.read_poke_self hm b h, Memory.read_poke_of_ne hm b⟩⟩

/-- Taking a fatal condition writes HALT and CAUSE alone (60_exceptions.md R238). -/
theorem State.raise_onlyRaised (s : State) (f : Fault) : OnlyRaised f s (s.raise f) :=
  ⟨rfl, fun y _ => State.getV_congr rfl y, .of_mem_eq rfl, by simp [SpecialsKept], rfl⟩

/-- Settles O34: past the top of memory the draw is the raise alone. -/
theorem drawChecksItsBoundsFirst : Obligations.DrawChecksItsBoundsFirst := by
  unfold Obligations.DrawChecksItsBoundsFirst
  intro x y n s hout
  rcases execDrw_cases x y n s with ⟨hin, -⟩ | ⟨-, hraise⟩
  · exact absurd hin (Nat.not_le.2 hout)
  · exact ⟨_, hraise, s.raise_onlyRaised _⟩

/-- Writing I leaves all else (10_state.md R22). -/
theorem State.setI_onlyI (s : State) (w : Word) : OnlyI s (s.setI w) :=
  ⟨fun y _ => State.getV_congr rfl y, .of_mem_eq rfl, by simp [SpecialsKept], rfl⟩

/-- Settles O24: `Fx29` is one write of the glyph address to I. -/
theorem fontAddressIsFiveTimesTheDigit : Obligations.FontAddressIsFiveTimesTheDigit := by
  unfold Obligations.FontAddressIsFiveTimesTheDigit
  intro x s hdigit
  exact ⟨s.setI (glyphAddr (s.getV x)), rfl, glyphAddr_toNat _ hdigit, s.setI_onlyI _⟩

end Sys2Proof.Machine
end

section
/-! PROOFS. The family 30_encoding.md: decoding the canonical words, the fixed bits of a word that
decodes, the words that decode to nothing, and the bits the decoder ignores. -/

namespace Sys2Proof

/-- Decoding the two bytes of an instruction is decoding its word (20_memory.md R55). -/
theorem decodeBytes_encodeBytes (i : Instr) (rest : List Byte) :
    decodeBytes (encodeBytes i ++ rest) = (decode (encode i)).map fun j => (j, rest) := by
  simp [encodeBytes, decodeBytes]

/-- A word whose NNN is not that of `00E0` or `00EE` is neither, so in family 0 it is a machine call
(30_encoding.md R85). -/
theorem decodeFamily0_of_nnn_ne {op : Word} (hcls : opNNN op ≠ 0x0E0#12)
    (hret : opNNN op ≠ 0x0EE#12) : decodeFamily0 op = .sys (opNNN op) := by
  have hE0 : op ≠ 0x00E0#16 := fun h => hcls (h ▸ rfl)
  have hEE : op ≠ 0x00EE#16 := fun h => hret (h ▸ rfl)
  rw [decodeFamily0, if_neg hE0, if_neg hEE]

/-- The machine calls are the words `0nnn` but `00E0` and `00EE` (30_encoding.md R85, R91). -/
theorem decode_packNNN_zero {nnn : Addr} (hcls : nnn ≠ 0x0E0#12) (hret : nnn ≠ 0x0EE#12) :
    decode (packNNN 0x0 nnn) = .ok (.sys nnn) := by
  calc decode (packNNN 0x0 nnn)
      = .ok (decodeFamily0 (packNNN 0x0 nnn)) := by simp [decode]
    _ = .ok (.sys nnn) := by
      rw [decodeFamily0_of_nnn_ne, opNNN_packNNN] <;> rwa [opNNN_packNNN]

/-- The decoder undoes the encoder on the terms some word decodes to (30_encoding.md R84). -/
theorem decode_encode {i : Instr} (h : i.wellFormed = true) : decode (encode i) = .ok i := by
  cases i
  case sys nnn =>
    obtain ⟨hcls, hret⟩ : nnn ≠ 0x0E0#12 ∧ nnn ≠ 0x0EE#12 := by simpa [Instr.wellFormed] using h
    exact decode_packNNN_zero hcls hret
  case cls | ret => rfl
  case ldReg | or | and | xor | addReg | sub | shr | subn | shl =>
    simp [encode, decode, decodeFamily8]
  case skp | sknp => simp [encode, decode, decodeFamilyE]
  case ldVxDt | ldVxK | ldDtVx | ldStVx | addIVx | ldFVx | ldBVx | ldMemVx | ldVxMem =>
    simp [encode, decode, decodeFamilyF]
  all_goals simp [encode, decode]

/-- Settles O1: the fields of a packed word are the ones packed, and two bytes are their word. -/
theorem decodeOfEncodeIsTheInstruction : Obligations.DecodeOfEncodeIsTheInstruction := by
  unfold Obligations.DecodeOfEncodeIsTheInstruction
  intro i rest h
  refine ⟨decode_encode h, ?_⟩
  rw [decodeBytes_encodeBytes, decode_encode h]
  rfl

section Rows

/-! The fixed bits of a word, from its family and its selector: the low nibble in family 8, the low
byte in families E and F (30_encoding.md R94). -/

variable {op : Word} {i : Instr} {f : Nat}

theorem eq_ofNat_of_toNat_eq {w k : Nat} {b : BitVec w} (h : b.toNat = k) : b = BitVec.ofNat w k := by
  rw [← h, BitVec.ofNat_toNat, BitVec.setWidth_eq]

theorem row_of_family (hF : (opF op).toNat = f) : op &&& 0xF000 = packNNN (.ofNat 4 f) 0 := by
  have hrow := packNNN_row (opF op) (opNNN op)
  rwa [packNNN_fields, eq_ofNat_of_toNat_eq hF] at hrow

theorem row_of_nibble {n : Nat} (hF : (opF op).toNat = f) (hN : (opN op).toNat = n) :
    op &&& 0xF00F = packXYN (.ofNat 4 f) 0 0 (.ofNat 4 n) := by
  have hrow := packXYN_selector_row (opF op) (opX op) (opY op) (opN op)
  rwa [packXYN_fields, eq_ofNat_of_toNat_eq hF, eq_ofNat_of_toNat_eq hN] at hrow

theorem row_of_byte {kk : Nat} (hF : (opF op).toNat = f) (hKK : (opKK op).toNat = kk) :
    op &&& 0xF0FF = packXKK (.ofNat 4 f) 0 (.ofNat 8 kk) := by
  have hrow := packXKK_selector_row (opF op) (opX op) (opKK op)
  rwa [packXKK_fields, eq_ofNat_of_toNat_eq hF, eq_ofNat_of_toNat_eq hKK] at hrow

/-- The word has the fixed bits of the instruction's row, and the instruction is none that another row
has priority over (30_encoding.md R91, R94). -/
def FitsRow (op : Word) (i : Instr) : Prop := op &&& rowMask i = rowMatch i ∧ i.wellFormed = true

/-- In family 0 the NNN tells a word from another. -/
theorem opNNN_ne_of_family0 {w : Word} (hop : (opF op).toNat = 0) (hw : opF w = 0) (h : op ≠ w) :
    opNNN op ≠ opNNN w := by
  intro hnnn
  apply h
  rw [← packNNN_fields op, ← packNNN_fields w, eq_ofNat_of_toNat_eq hop, hw, hnnn]
  rfl

theorem decodeFamily0_row (hF : (opF op).toNat = 0) : FitsRow op (decodeFamily0 op) := by
  unfold decodeFamily0 FitsRow
  split
  · subst op; decide
  · split
    · subst op; decide
    · next hE0 hEE =>
      have hcls : opNNN op ≠ 0x0E0#12 := opNNN_ne_of_family0 hF (by decide) hE0
      have hret : opNNN op ≠ 0x0EE#12 := opNNN_ne_of_family0 hF (by decide) hEE
      exact ⟨(row_of_family hF).trans rfl, by simp [Instr.wellFormed, hcls, hret]⟩

theorem decodeFamily8_row (hF : (opF op).toNat = 8) (h : decodeFamily8 op = .ok i) :
    FitsRow op i := by
  unfold decodeFamily8 at h
  split at h <;> cases h
  all_goals next hN => exact ⟨(row_of_nibble hF hN).trans rfl, rfl⟩

theorem decodeFamilyE_row (hF : (opF op).toNat = 0xE) (h : decodeFamilyE op = .ok i) :
    FitsRow op i := by
  unfold decodeFamilyE at h
  split at h <;> cases h
  all_goals next hKK => exact ⟨(row_of_byte hF hKK).trans rfl, rfl⟩

theorem decodeFamilyF_row (hF : (opF op).toNat = 0xF) (h : decodeFamilyF op = .ok i) :
    FitsRow op i := by
  unfold decodeFamilyF at h
  split at h <;> cases h
  all_goals next hKK => exact ⟨(row_of_byte hF hKK).trans rfl, rfl⟩

end Rows

/-- Settles O2: the family and the selector the decoder matched on are the fixed bits of the row. -/
theorem decodedWordMatchesItsTableRow : Obligations.DecodedWordMatchesItsTableRow := by
  unfold Obligations.DecodedWordMatchesItsTableRow
  intro op i h
  unfold decode at h
  split at h
  case h_1 hF => cases h; exact decodeFamily0_row hF
  case h_9 hF => exact decodeFamily8_row hF h
  case h_15 hF => exact decodeFamilyE_row hF h
  case h_16 =>
    have hlt := (opF op).isLt
    have hF : (opF op).toNat = 0xF := by simp only [imp_false] at *; omega
    exact decodeFamilyF_row hF h
  all_goals
    next hF =>
      cases h
      exact ⟨(row_of_family hF).trans rfl, rfl⟩

section Invalid

/-! The words that decode to nothing (30_encoding.md R90). -/

variable {op : Word} {e : Rejection}

theorem decodeFamily8_eq_error_iff : decodeFamily8 op = .error e ↔
    e = .invalidOpcode op ∧ op.toNat % 16 ∈ [0x8, 0x9, 0xA, 0xB, 0xC, 0xD, 0xF] := by
  rw [← opN_toNat]
  have hlt := (opN op).isLt
  unfold decodeFamily8
  split
  case h_10 =>
    have hmem : (opN op).toNat ∈ [0x8, 0x9, 0xA, 0xB, 0xC, 0xD, 0xF] := by
      simp only [imp_false, List.mem_cons, List.not_mem_nil] at *; omega
    simp only [hmem, and_true, Except.error.injEq, eq_comm]
  all_goals
    next hN => simp [hN]

theorem decodeFamilyE_eq_error_iff : decodeFamilyE op = .error e ↔
    e = .invalidOpcode op ∧ op.toNat % 256 ∉ [0x9E, 0xA1] := by
  rw [← opKK_toNat]
  unfold decodeFamilyE
  split
  case h_3 => simp_all [eq_comm]
  all_goals
    next hKK => simp [hKK]

theorem decodeFamilyF_eq_error_iff : decodeFamilyF op = .error e ↔
    e = .invalidOpcode op ∧
      op.toNat % 256 ∉ [0x07, 0x0A, 0x15, 0x18, 0x1E, 0x29, 0x33, 0x55, 0x65] := by
  rw [← opKK_toNat]
  unfold decodeFamilyF
  split
  case h_10 => simp_all [eq_comm]
  all_goals
    next hKK => simp [hKK]

/-- The words no row of the opcode map matches, as 30_encoding.md R90 lists them. -/
def InvalidWord (op : Word) : Prop :=
  (op.toNat / 4096 = 0x8 ∧ op.toNat % 16 ∈ [0x8, 0x9, 0xA, 0xB, 0xC, 0xD, 0xF]) ∨
  (op.toNat / 4096 = 0xE ∧ op.toNat % 256 ∉ [0x9E, 0xA1]) ∨
  (op.toNat / 4096 = 0xF ∧
    op.toNat % 256 ∉ [0x07, 0x0A, 0x15, 0x18, 0x1E, 0x29, 0x33, 0x55, 0x65])

theorem decode_eq_error_iff : decode op = .error e ↔ e = .invalidOpcode op ∧ InvalidWord op := by
  have hlt := (opF op).isLt
  unfold decode InvalidWord
  rw [← opF_toNat]
  split
  case h_9 hF => simp [hF, decodeFamily8_eq_error_iff]
  case h_15 hF => simp [hF, decodeFamilyE_eq_error_iff]
  case h_16 =>
    have hF : (opF op).toNat = 0xF := by simp only [imp_false] at *; omega
    simp [hF, decodeFamilyF_eq_error_iff]
  all_goals
    next hF => simp [hF]

end Invalid

/-- Settles O3: the decoder's three partial families, each with the selectors it refuses. -/
theorem invalidOpcodesAreExactlyTheListedOnes :
    Obligations.InvalidOpcodesAreExactlyTheListedOnes := by
  unfold Obligations.InvalidOpcodesAreExactlyTheListedOnes
  intro op
  refine ⟨⟨fun ⟨e, h⟩ => (decode_eq_error_iff.1 h).2, fun h => ?_⟩,
    fun e h => (decode_eq_error_iff.1 h).1⟩
  exact ⟨.invalidOpcode op, decode_eq_error_iff.2 ⟨rfl, h⟩⟩

/-- Settles O4: no ignored nibble is among the fields the decoder reads in its family. -/
theorem ignoredBitsDoNotMatter : Obligations.IgnoredBitsDoNotMatter := by
  unfold Obligations.IgnoredBitsDoNotMatter
  refine ⟨fun x y n => ⟨?_, ?_⟩, fun x y => ⟨?_, ?_⟩, fun nnn => decode_packNNN_zero⟩
  · simp [decode]
  · simp [decode]
  · simp [decode, decodeFamily8]
  · simp [decode, decodeFamily8]

/-- Settles O5: each word by evaluation. -/
theorem workedWordsDecodeAsTheSpecSays : Obligations.WorkedWordsDecodeAsTheSpecSays := by
  unfold Obligations.WorkedWordsDecodeAsTheSpecSays
  refine ⟨?_, ?_, ?_, ?_, ?_⟩ <;> decide

end Sys2Proof
end

section
/-! PROOFS. The family 40_step_cycle.md: what a step keeps, that it completes, its fetch and its
timers. -/

namespace Sys2Proof.Machine

/-- A block store gives a next state, raising or not (43_index_memory.md R173, R174; log 1). -/
theorem State.storeAtI_completes (s : State) (bytes : List Byte) :
    ∃ t, s.storeAtI bytes = .next t := by
  rcases s.storeAtI_cases bytes with ⟨-, h⟩ | ⟨-, h⟩ <;> exact ⟨_, h⟩

/-- Every instruction gives a next state (40_step_cycle.md R106; log 1, log 5, log 6). -/
theorem exec_completes (i : Instr) (s : State) : ∃ t, exec i s = .next t := by
  cases i
  case ret => rcases execRet_cases s with ⟨_, h⟩ | ⟨-, h⟩ <;> exact ⟨_, h⟩
  case call n => rcases execCall_cases n s with ⟨_, h⟩ | ⟨-, h⟩ <;> exact ⟨_, h⟩
  case drw x y n => rcases execDrw_cases x y n s with ⟨-, h⟩ | ⟨-, h⟩ <;> exact ⟨_, h⟩
  case ldVxK x => rcases execLdVxK_cases x s with ⟨_, -, h⟩ | ⟨-, h⟩ <;> exact ⟨_, h⟩
  case ldVxMem x => rcases s.loadFromI_cases x with ⟨-, h⟩ | ⟨-, h⟩ <;> exact ⟨_, h⟩
  case ldBVx | ldMemVx => exact s.storeAtI_completes _
  all_goals exact ⟨_, rfl⟩

section Invariant

/-! Each part of the invariant on its own: what an instruction leaves in memory, in PC and in the live
stack entries. -/

variable {i : Instr} {s t : State}

/-- A block store keeps memory canonical, raising or not (log 3). -/
theorem State.storeAtI_mem_wf {bytes : List Byte} (hm : s.mem.wf) (h : s.storeAtI bytes = .next t) :
    t.mem.wf := by
  rcases s.storeAtI_cases bytes with ⟨-, hs⟩ | ⟨-, hs⟩ <;> (rw [hs] at h; cases h)
  · exact Memory.wf_pokeAll hm _ _
  · exact Memory.wf_forget hm _ _ _

/-- Every instruction keeps memory canonical: the two stores do, and no other writes it (log 3). -/
theorem exec_mem_wf (he : exec i s = .next t) (hm : s.mem.wf) : t.mem.wf := by
  by_cases hbcd : ∃ x, i = .ldBVx x
  · obtain ⟨_, rfl⟩ := hbcd
    exact State.storeAtI_mem_wf hm he
  · by_cases hblock : ∃ x, i = .ldMemVx x
    · obtain ⟨_, rfl⟩ := hblock
      exact State.storeAtI_mem_wf hm he
    · rwa [exec_mem_of_not_store he (not_exists.1 hbcd) (not_exists.1 hblock)]

/-- A skip leaves PC or advances it (41_control_flow.md R124). -/
theorem State.skipIf_pc (s : State) (c : Bool) :
    (s.skipIf c).pc = s.pc ∨ (s.skipIf c).pc = s.pc + 2 := by
  cases c
  · exact .inl rfl
  · exact .inr rfl

/-- The instructions that 41_control_flow.md R129 does not list leave PC alone. -/
theorem exec_pc_of_not_writesPc (he : exec i s = .next t) (hw : writesPc i = false) :
    t.pc = s.pc := by
  cases i
  case drw =>
    obtain ⟨-, -, hpc, -⟩ := execDrw_frame he
    exact hpc
  case ldBVx | ldMemVx =>
    obtain ⟨-, hpc, -⟩ := State.storeAtI_frame he
    exact hpc
  case ldVxMem =>
    obtain ⟨-, -, hpc, -⟩ := State.loadFromI_frame he
    exact hpc
  case ret | jp | call | seByte | sneByte | seReg | sneReg | jpV0 | skp | sknp | ldVxK => cases hw
  all_goals
    cases he
    rfl

/-- An address field is in the range of PC (40_step_cycle.md R110). -/
theorem zextAddr_toNat_le (n : Addr) : (zextAddr n).toNat ≤ 0x10FE := by
  have := n.isLt
  rw [zextAddr_toNat]
  omega

/-- The reach of `Bnnn`: 0xFFF + 0xFF, not reduced to 12 bits (40_step_cycle.md R110, D15). -/
theorem zextAddr_add_zextByte_toNat_le (n : Addr) (b : Byte) :
    (zextAddr n + zextByte b).toNat ≤ 0x10FE := by
  have := n.isLt
  have := b.isLt
  rw [BitVec.toNat_add, zextAddr_toNat, zextByte_toNat]
  omega

/-- Where an instruction can leave PC: where it was, one instruction on or back, at a live return
address, or at an address it forms from NNN, at most 0x10FE. -/
theorem exec_pc_cases (he : exec i s = .next t) :
    t.pc = s.pc ∨ t.pc = s.pc + 2 ∨ t.pc = s.pc - 2 ∨
      (∃ k : Fin 16, k.val < s.sp.val ∧ t.pc = s.stack[k.val]) ∨ t.pc.toNat ≤ 0x10FE := by
  cases i
  case seByte | sneByte | seReg | sneReg | skp | sknp =>
    cases he
    exact (s.skipIf_pc _).imp_right .inl
  case ret =>
    rcases execRet_cases s with ⟨hsp, h⟩ | ⟨-, h⟩ <;> (rw [h] at he; cases he)
    · have htop : s.sp.val - 1 < s.sp.val := by omega
      exact .inr (.inr (.inr (.inl ⟨⟨s.sp.val - 1, by omega⟩, htop, rfl⟩)))
    · exact .inl rfl
  case ldVxK x =>
    rcases execLdVxK_cases x s with ⟨_, -, h⟩ | ⟨-, h⟩ <;> (rw [h] at he; cases he)
    · exact .inl rfl
    · exact .inr (.inr (.inl rfl))
  case jp n =>
    cases he
    exact .inr (.inr (.inr (.inr (zextAddr_toNat_le n))))
  case call n =>
    rcases execCall_cases n s with ⟨_, h⟩ | ⟨-, h⟩ <;> (rw [h] at he; cases he)
    · exact .inr (.inr (.inr (.inr (zextAddr_toNat_le n))))
    · exact .inl rfl
  case jpV0 n =>
    cases he
    exact .inr (.inr (.inr (.inr (zextAddr_add_zextByte_toNat_le n _))))
  all_goals exact .inl (exec_pc_of_not_writesPc he rfl)

/-- After an advance PC is 2 to 4096, and from there no instruction takes it out of its range
(40_step_cycle.md R110). -/
theorem exec_pcInRange (he : exec i s = .next t) (hlo : 2 ≤ s.pc.toNat) (hhi : s.pc.toNat ≤ 4096)
    (hs : StackInRange s) : PcInRange t := by
  unfold PcInRange
  rcases exec_pc_cases he with h | h | h | ⟨k, hk, h⟩ | h
  · rw [h]; omega
  · rw [h]; bv_omega
  · rw [h]; bv_omega
  · rw [h]
    exact (hs k hk).trans (by decide)
  · exact h

/-- Only `2nnn` raises the number of entries (10_state.md R27). -/
theorem exec_sp_le_of_not_call (he : exec i s = .next t) (hcall : ∀ n, i ≠ .call n) :
    t.sp.val ≤ s.sp.val := by
  by_cases hret : i = .ret
  · subst hret
    rcases execRet_cases s with ⟨_, h⟩ | ⟨-, h⟩ <;> (rw [h] at he; cases he; simp)
  · obtain ⟨-, -, -, -, hsp, -⟩ := specialRegistersHaveTheirWriters i s t he
    rw [hsp hcall hret]

/-- A live slot after `2nnn` that was not live before holds the pushed PC (41_control_flow.md R123). -/
theorem execCall_pushed {n : Addr} (he : exec (.call n) s = .next t) {k : Fin 16}
    (hk : k.val < t.sp.val) (hnew : s.sp.val ≤ k.val) : t.stack[k.val] = s.pc := by
  rcases execCall_cases n s with ⟨_, h⟩ | ⟨-, h⟩ <;> (rw [h] at he; cases he)
  · have htop : s.sp.val = k.val := Nat.le_antisymm hnew (Nat.lt_succ_iff.1 hk)
    simp [htop]
  · exact absurd hk (Nat.not_lt.2 hnew)

/-- The live entries stay in range: the slots below SP are kept, and the one `2nnn` adds is the
advanced PC (40_step_cycle.md R110). -/
theorem exec_stackInRange (he : exec i s = .next t) (hhi : s.pc.toNat ≤ 4096)
    (hs : StackInRange s) : StackInRange t := by
  intro k hk
  by_cases hlive : k.val < s.sp.val
  · rw [exec_stack_below i he k hlive]
    exact hs k hlive
  · by_cases hcall : ∃ n, i = .call n
    · obtain ⟨n, rfl⟩ := hcall
      rwa [execCall_pushed he hk (Nat.not_lt.1 hlive)]
    · have := exec_sp_le_of_not_call he (not_exists.1 hcall)
      omega

/-- The advance of a fetch that succeeded does not wrap (40_step_cycle.md R103, R110). -/
theorem State.dispatchState_pc_toNat (hpc : s.pc.toNat < 4095) :
    s.dispatchState.pc.toNat = s.pc.toNat + 2 := by
  rw [State.dispatchState_pc]
  bv_omega

/-- A dispatch keeps the invariant (40_step_cycle.md R105, R110). -/
theorem exec_dispatchState_inv (hinv : Inv s) (hpc : s.pc.toNat < 4095)
    (he : exec i s.dispatchState = .next t) : Inv t := by
  obtain ⟨hmem, -, hstack⟩ := hinv
  have hadv := State.dispatchState_pc_toNat hpc
  exact ⟨exec_mem_wf he hmem, exec_pcInRange he (by omega) (by omega) hstack,
    exec_stackInRange he (by omega) hstack⟩

end Invariant

/-- Settles O51: a step that only raises writes nothing the invariant speaks of, and one that dispatches
has PC at most 4096. -/
theorem everyStepKeepsTheInvariant : Obligations.EveryStepKeepsTheInvariant := by
  unfold Obligations.EveryStepKeepsTheInvariant
  intro s t hinv h
  obtain ⟨-, ⟨-, rfl⟩ | ⟨_, _, -, -, -, rfl⟩ | ⟨_, _, hpc, -, -, he⟩⟩ := step_cases h
  · exact hinv
  · exact hinv
  · exact exec_dispatchState_inv hinv hpc he

/-- Settles O40: the tick of the next step counts down the value `Fx15` wrote, and `Fx07` reads it. -/
theorem timerReadInTheNextStepIsOneLess : Obligations.TimerReadInTheNextStepIsOneLess := by
  unfold Obligations.TimerReadInTheNextStepIsOneLess
  intro x y s
  refine ⟨s.setDt (s.getV x), _, rfl, rfl, ?_⟩
  rw [State.getV_setV_self]
  exact countDown_toNat (s.getV x)

/-- Settles O45: a step raises in its fetch or its decode, or dispatches, and each gives a next state. -/
theorem everyRunningStepCompletes : Obligations.EveryRunningStepCompletes := by
  unfold Obligations.EveryRunningStepCompletes
  refine ⟨exec_completes, fun s hrun => ?_⟩
  cases hf : s.fetch with
  | error f => exact ⟨_, step_fetch_error s f hrun hf⟩
  | ok op =>
    cases hd : decode op with
    | error e => exact ⟨_, step_decode_error s op e hrun hf hd⟩
    | ok i =>
      rw [step_dispatch s op i hrun hf hd]
      exact exec_completes i _

/-- Settles O46: the tick comes before the dispatch, and only its own move writes a timer after it. -/
theorem timersTickInEveryDispatchingStep : Obligations.TimersTickInEveryDispatchingStep := by
  unfold Obligations.TimersTickInEveryDispatchingStep
  intro s op i hrun hf hd
  obtain ⟨t, he⟩ := exec_completes i s.dispatchState
  obtain ⟨-, hdt, hst, -⟩ := specialRegistersHaveTheirWriters i _ t he
  refine ⟨t, (step_dispatch s op i hrun hf hd).trans he, fun h => ?_, fun h => ?_⟩
  · rw [hdt h, State.dispatchState_dt, countDown_toNat]
  · rw [hst h, State.dispatchState_st, countDown_toNat]

/-- Settles O41: the state dispatched from has PC advanced and both timers counted down. -/
theorem stepRunsTheDecodedInstruction : Obligations.StepRunsTheDecodedInstruction := by
  unfold Obligations.StepRunsTheDecodedInstruction
  intro s i hrun hpc hd
  exact step_dispatch s _ i hrun (s.fetch_ok hpc) hd

/-- Settles O42: the failed fetch is the raise alone. -/
theorem fetchBeyondMemoryHalts : Obligations.FetchBeyondMemoryHalts := by
  unfold Obligations.FetchBeyondMemoryHalts
  intro s hrun hpc
  exact ⟨_, step_fetch_error s _ hrun (s.fetch_error hpc), s.raise_onlyRaised _⟩

/-- Settles O44: the step looks at CAUSE before all else. -/
theorem haltedEngineRepeatsItsFault : Obligations.HaltedEngineRepeatsItsFault := by
  unfold Obligations.HaltedEngineRepeatsItsFault
  exact step_halted

/-- Settles O53: memory lists nothing, PC is the load address and no stack entry is live. -/
theorem invariantHoldsAfterReset : Obligations.InvariantHoldsAfterReset := by
  unfold Obligations.InvariantHoldsAfterReset
  exact ⟨reset_mem_wf, by decide, fun _ hk => absurd hk (Nat.not_lt_zero _)⟩

end Sys2Proof.Machine
end

section
/-! PROOFS. The family 41_control_flow.md: the machine call, the call and its return, the jumps, the
skips, and which instructions write PC. -/

namespace Sys2Proof.Machine

section Frames

/-! What a move of PC leaves unchanged, with and without a move of the stack. -/

variable (s : State)

/-- Writing PC leaves all else (10_state.md R23). -/
theorem State.setPc_onlyPc (w : Word) : OnlyPc s (s.setPc w) :=
  ⟨fun y _ => State.getV_congr rfl y, .of_mem_eq rfl, by simp [SpecialsKept]⟩

/-- Writing the stack, SP and PC leaves all else (10_state.md R26, R27). -/
theorem State.setStack_setPc_frame (k : Vector Word 16) (n : Fin 17) (w : Word) :
    RegsKeptBut [] s ((s.setStack k n).setPc w) ∧ MemoryKept s ((s.setStack k n).setPc w) ∧
      SpecialsKept (s.setStack k n) ((s.setStack k n).setPc w) :=
  ⟨fun y _ => State.getV_congr rfl y, .of_mem_eq rfl, by simp [SpecialsKept]⟩

/-- The skip on a condition: PC two further where it holds, and all else left (41_control_flow.md
R124). -/
theorem State.skipIf_skips {c : Bool} {p : Prop} [Decidable p] (h : c = true ↔ p) :
    OnlyPc s (s.skipIf c) ∧ (s.skipIf c).pc = if p then s.pc + 2 else s.pc := by
  rw [State.skipIf_eq]
  exact ⟨s.setPc_onlyPc _, if_congr h rfl rfl⟩

end Frames

section Subroutines

/-! The two meanings of RET and of CALL, each under its own condition on SP, and CALL repeated. -/

variable {s t : State} {nnn : Addr}

/-- RET with an entry to pop (41_control_flow.md R121). -/
theorem execRet_of_nonempty (h : s.sp.val ≠ 0) :
    exec .ret s = .next ((s.setStack s.stack ⟨s.sp.val - 1, by omega⟩).setPc
      (s.stack[s.sp.val - 1]'(by omega))) := by
  rcases execRet_cases s with ⟨_, hret⟩ | ⟨hempty, -⟩
  · exact hret
  · exact absurd hempty h

/-- RET on an empty stack (60_exceptions.md R234). -/
theorem execRet_of_empty (h : s.sp.val = 0) :
    exec .ret s = .next (s.raise .stackUnderflow) := by
  rcases execRet_cases s with ⟨hentry, -⟩ | ⟨-, hret⟩
  · exact absurd h hentry
  · exact hret

/-- CALL with room for an entry (41_control_flow.md R123). -/
theorem execCall_of_room (h : s.sp.val < 16) :
    exec (.call nnn) s = .next ((s.setStack (s.stack.set s.sp.val s.pc h)
      ⟨s.sp.val + 1, by omega⟩).setPc (zextAddr nnn)) := by
  rcases execCall_cases nnn s with ⟨_, hcall⟩ | ⟨hfull, -⟩
  · exact hcall
  · omega

/-- CALL on a full stack (60_exceptions.md R233). -/
theorem execCall_of_full (h : s.sp.val = 16) :
    exec (.call nnn) s = .next (s.raise .stackOverflow) := by
  rcases execCall_cases nnn s with ⟨hroom, -⟩ | ⟨-, hcall⟩
  · omega
  · exact hcall

/-- The first of several calls. -/
theorem callTimes_succ (h : exec (.call nnn) s = .next t) (n : Nat) :
    callTimes nnn (n + 1) s = callTimes nnn n t := by
  rw [callTimes, h]

/-- Calls after calls. -/
theorem callTimes_add {m : Nat} (h : callTimes nnn m s = .next t) (n : Nat) :
    callTimes nnn (m + n) s = callTimes nnn n t := by
  induction m generalizing s with
  | zero =>
    cases h
    rw [Nat.zero_add]
  | succ m ih =>
    obtain ⟨u, hu⟩ := exec_completes (.call nnn) s
    rw [callTimes_succ hu] at h
    rw [Nat.succ_add, callTimes_succ hu]
    exact ih h

/-- As many calls as there is room for succeed (41_control_flow.md R123). -/
theorem callTimes_of_room {n : Nat} (h : s.sp.val + n ≤ 16) :
    ∃ t, callTimes nnn n s = .next t ∧ t.sp.val = s.sp.val + n ∧ t.cause = s.cause := by
  induction n generalizing s with
  | zero => exact ⟨s, rfl, rfl, rfl⟩
  | succ n ih =>
    obtain ⟨u, hcall, husp, hucause⟩ : ∃ u, exec (.call nnn) s = .next u ∧
        u.sp.val = s.sp.val + 1 ∧ u.cause = s.cause :=
      ⟨_, execCall_of_room (by omega), rfl, rfl⟩
    obtain ⟨t, ht, hsp, hcause⟩ := ih (s := u) (by omega)
    exact ⟨t, (callTimes_succ hcall n).trans ht, by omega, hcause.trans hucause⟩

end Subroutines

/-- Settles O7: with an entry RET is a pop and a move of PC, without one the raise alone. -/
theorem returnPopsTheTopEntry : Obligations.ReturnPopsTheTopEntry := by
  unfold Obligations.ReturnPopsTheTopEntry
  intro s
  exact ⟨fun h => ⟨_, execRet_of_nonempty h, rfl, rfl, rfl, s.setStack_setPc_frame _ _ _⟩,
    fun h => ⟨_, execRet_of_empty h, s.raise_onlyRaised _⟩⟩

/-- Settles O9: with room CALL is a push and a move of PC, without it the raise alone. -/
theorem callPushesTheReturnAddress : Obligations.CallPushesTheReturnAddress := by
  unfold Obligations.CallPushesTheReturnAddress
  intro nnn s
  refine ⟨fun h => ⟨_, execCall_of_room h, ?_, fun k hk => ?_, rfl, zextAddr_toNat nnn,
    s.setStack_setPc_frame _ _ _⟩, fun h => ⟨_, execCall_of_full h, s.raise_onlyRaised _⟩⟩
  · exact Vector.getElem_set_self h
  · exact Vector.getElem_set_ne h k.isLt hk.symm

/-- Settles O10: the run in between keeps the slot the call wrote, and that slot is the one the return
pops. -/
theorem returnUndoesCall : Obligations.ReturnUndoesCall := by
  unfold Obligations.ReturnUndoesCall
  intro nnn s hroom
  refine ⟨_, execCall_of_room hroom, rfl, rfl, rfl, rfl, rfl, rfl, fun u hrun hsp => ?_⟩
  obtain ⟨-, hkept⟩ := hrun.slot_kept ⟨s.sp.val, hroom⟩ (Nat.lt_succ_self _)
  have hslot : u.stack[s.sp.val] = s.pc := hkept.trans (Vector.getElem_set_self hroom)
  have hdepth : u.dispatchState.sp.val = s.sp.val + 1 := congrArg Fin.val hsp
  refine ⟨_, execRet_of_nonempty (by omega), ?_, ?_, rfl, rfl, rfl, rfl, rfl⟩
  · simpa [hsp] using hslot
  · exact Fin.ext (by simp [hsp])

/-- Settles O11: 16 calls fill the stack, and one more finds it full. -/
theorem sixteenNestedCallsSucceed : Obligations.SixteenNestedCallsSucceed := by
  unfold Obligations.SixteenNestedCallsSucceed
  intro nnn s hempty hrun
  obtain ⟨t, ht, hsp, hcause⟩ := callTimes_of_room (nnn := nnn) (s := s) (n := 16) (by omega)
  have hfull : t.sp.val = 16 := by omega
  refine ⟨⟨t, ht, hfull, hcause.trans hrun⟩, t.raise .stackOverflow, ?_, hfull, rfl⟩
  calc callTimes nnn 17 s
      = callTimes nnn 1 t := callTimes_add ht 1
    _ = .next (t.raise .stackOverflow) := callTimes_succ (execCall_of_full hfull) 0

/-- Settles O47: the instructions the list leaves out keep PC, whichever of their cases they take. -/
theorem onlyTheListedInstructionsWritePc : Obligations.OnlyTheListedInstructionsWritePc := by
  unfold Obligations.OnlyTheListedInstructionsWritePc
  exact fun _ _ _ => exec_pc_of_not_writesPc

/-- Settles O6: the machine call answers the state it was given. -/
theorem machineCallIsANoOp : Obligations.MachineCallIsANoOp := by
  unfold Obligations.MachineCallIsANoOp
  exact fun _ _ => rfl

/-- Settles O8: the jump's word decodes to it, and it is one write of PC. -/
theorem jumpSetsPc : Obligations.JumpSetsPc := by
  unfold Obligations.JumpSetsPc
  intro nnn s
  exact ⟨decode_encode (i := .jp nnn) rfl, _, rfl, zextAddr_toNat nnn, s.setPc_onlyPc _⟩

/-- Settles O12: each skip is the shared one on its own comparison. -/
theorem skipsAdvancePcWhenTheConditionHolds :
    Obligations.SkipsAdvancePcWhenTheConditionHolds := by
  unfold Obligations.SkipsAdvancePcWhenTheConditionHolds
  intro x y kk s
  exact ⟨⟨_, rfl, s.skipIf_skips beq_iff_eq⟩, ⟨_, rfl, s.skipIf_skips bne_iff_ne⟩,
    ⟨_, rfl, s.skipIf_skips beq_iff_eq⟩, ⟨_, rfl, s.skipIf_skips bne_iff_ne⟩⟩

/-- An address field and a byte add without a carry out of 16 bits (41_control_flow.md R128, D15). -/
theorem zextAddr_add_zextByte_toNat (n : Addr) (b : Byte) :
    (zextAddr n + zextByte b).toNat = n.toNat + b.toNat := by
  have := n.isLt
  have := b.isLt
  rw [BitVec.toNat_add, zextAddr_toNat, zextByte_toNat]
  omega

/-- Settles O13: one write of PC, with a sum that fits its 16 bits. -/
theorem indexedJumpAddsV0 : Obligations.IndexedJumpAddsV0 := by
  unfold Obligations.IndexedJumpAddsV0
  intro nnn s
  exact ⟨_, rfl, zextAddr_add_zextByte_toNat nnn (s.getV 0), s.setPc_onlyPc _⟩

end Sys2Proof.Machine
end

section
/-! PROOFS. The family 42_alu.md: the register loads, the ALU and its flags, and RND. -/

namespace Sys2Proof.Machine

section Writes

/-! The two shapes of a write of this family, V[X] alone and V[X] then VF: what each leaves unchanged,
and what VF and V[X] hold after the second. -/

variable (s : State) (x : Nibble) (r : Byte) (c : Bool)

/-- Writing V[X] leaves all else (10_state.md R20). -/
theorem State.setV_onlyRegs : OnlyRegs [x] s (s.setV x r) :=
  ⟨fun _ hy => s.getV_setV_ne (by simpa using hy) r, .of_mem_eq rfl, by simp [SpecialsKept], rfl⟩

/-- Writing V[X], then VF, leaves all else (42_alu.md R153). -/
theorem State.setResultThenFlag_onlyRegs : OnlyRegs [x, vf] s (s.setResultThenFlag x r c) := by
  refine ⟨fun y hy => ?_, .of_mem_eq rfl, by simp [SpecialsKept, State.setResultThenFlag], rfl⟩
  obtain ⟨hx, hvf⟩ : y ≠ x ∧ y ≠ vf := by simpa using hy
  rw [State.getV_setResultThenFlag, if_neg hvf, if_neg hx]

/-- VF ends as the flag, for X = 15 too (42_alu.md R153, D11). -/
@[simp] theorem State.getV_vf_setResultThenFlag :
    (s.setResultThenFlag x r c).getV vf = flagByte c := by
  rw [State.getV_setResultThenFlag, if_pos rfl]

variable {x}

/-- V[X] ends as the result, but for X = 15 (42_alu.md R153, D11). -/
theorem State.getV_setResultThenFlag_of_ne_vf (hx : x ≠ vf) :
    (s.setResultThenFlag x r c).getV x = r := by
  rw [State.getV_setResultThenFlag, if_neg hx, if_pos rfl]

end Writes

section Arithmetic

/-! The results and the flags as numbers. -/

variable (a b : Byte)

/-- A difference of bytes is the integer difference modulo 256 (42_alu.md R147). -/
theorem sub_toNat_eq_emod : ((a - b).toNat : Int) = (a.toNat - b.toNat : Int) % 256 := by
  have := b.isLt
  rw [BitVec.toNat_sub]
  omega

/-- The flag byte of a condition (10_state.md R21). -/
theorem flagByte_eq_ite {c : Bool} {p : Prop} [Decidable p] (h : c = true ↔ p) :
    flagByte c = if p then 1 else 0 :=
  if_congr h rfl rfl

/-- The carry as a byte (42_alu.md R146). -/
theorem flagByte_carryOut :
    flagByte (carryOut a b) = if a.toNat + b.toNat > 255 then 1 else 0 :=
  flagByte_eq_ite decide_eq_true_iff

/-- Not-borrow as a byte, 1 for equal operands (42_alu.md R154, D13). -/
theorem flagByte_noBorrow : flagByte (noBorrow a b) = if a.toNat ≥ b.toNat then 1 else 0 :=
  flagByte_eq_ite decide_eq_true_iff

/-- The flag byte as a number (10_state.md R21). -/
theorem flagByte_toNat (c : Bool) : (flagByte c).toNat = c.toNat := by
  cases c <;> rfl

/-- The bit a right shift shifts out, as a number (42_alu.md R148). -/
theorem flagByte_lowBit_toNat : (flagByte (lowBit a)).toNat = a.toNat % 2 := by
  rw [flagByte_toNat, lowBit, BitVec.getLsbD, Nat.toNat_testBit, pow_zero, Nat.div_one]

/-- The bit a left shift shifts out, as a number (42_alu.md R150). -/
theorem flagByte_highBit_toNat : (flagByte (highBit a)).toNat = a.toNat / 128 := by
  have := a.isLt
  rw [flagByte_toNat, highBit, BitVec.getLsbD, Nat.toNat_testBit]
  omega

/-- What a mask lets through has no bit outside it (42_alu.md R151). -/
theorem masked_and_not_mask : a &&& b &&& ~~~b = 0 := by
  rw [BitVec.and_assoc, BitVec.and_not_self]
  exact BitVec.and_zero

end Arithmetic

/-- Settles O14: each load is one write of V[X]. -/
theorem registerLoadsCopyTheirOperand : Obligations.RegisterLoadsCopyTheirOperand := by
  unfold Obligations.RegisterLoadsCopyTheirOperand
  intro x y kk s
  exact ⟨⟨_, rfl, s.getV_setV_self x kk, s.setV_onlyRegs x kk⟩,
    ⟨_, rfl, s.getV_setV_self x _, s.setV_onlyRegs x _⟩⟩

/-- Settles O15: one write of V[X], with the sum of bytes. -/
theorem addImmediateWrapsWithoutFlag : Obligations.AddImmediateWrapsWithoutFlag := by
  unfold Obligations.AddImmediateWrapsWithoutFlag
  intro x kk s
  refine ⟨_, rfl, ?_, s.setV_onlyRegs x _⟩
  rw [State.getV_setV_self, BitVec.toNat_add]

/-- Settles O16: each is one write of V[X], with an operation that acts bit by bit. -/
theorem bitwiseOperationsActOnEveryBit : Obligations.BitwiseOperationsActOnEveryBit := by
  unfold Obligations.BitwiseOperationsActOnEveryBit
  intro x y s
  refine ⟨⟨_, rfl, s.setV_onlyRegs x _, fun k _ => ?_⟩, ⟨_, rfl, s.setV_onlyRegs x _, fun k _ => ?_⟩,
    ⟨_, rfl, s.setV_onlyRegs x _, fun k _ => ?_⟩⟩
  · rw [State.getV_setV_self, BitVec.getLsbD_or]
  · rw [State.getV_setV_self, BitVec.getLsbD_and]
  · rw [State.getV_setV_self, BitVec.getLsbD_xor]

/-- Settles O17: the sum of bytes into V[X], then the carry. -/
theorem addStoresSumThenCarry : Obligations.AddStoresSumThenCarry := by
  unfold Obligations.AddStoresSumThenCarry
  intro x y s
  refine ⟨_, rfl, fun hx => ?_, ?_, s.setResultThenFlag_onlyRegs x _ _⟩
  · rw [State.getV_setResultThenFlag_of_ne_vf _ _ _ hx, BitVec.toNat_add]
  · rw [State.getV_vf_setResultThenFlag, flagByte_carryOut]

/-- A subtract leaves the difference of its operands in V[X], then not-borrow in VF (42_alu.md R147,
R149). -/
theorem State.subtract_writes {s t : State} {x : Nibble} {a b : Byte}
    (h : t = s.setResultThenFlag x (a - b) (noBorrow a b)) :
    (x ≠ vf → ((t.getV x).toNat : Int) = (a.toNat - b.toNat : Int) % 256) ∧
      t.getV vf = (if a.toNat ≥ b.toNat then 1 else 0) ∧ OnlyRegs [x, vf] s t := by
  subst h
  refine ⟨fun hx => ?_, ?_, s.setResultThenFlag_onlyRegs x _ _⟩
  · rw [State.getV_setResultThenFlag_of_ne_vf _ _ _ hx, sub_toNat_eq_emod]
  · rw [State.getV_vf_setResultThenFlag, flagByte_noBorrow]

/-- Settles O18: the subtract of V[Y] from V[X]. -/
theorem subStoresDifferenceThenNotBorrow : Obligations.SubStoresDifferenceThenNotBorrow := by
  unfold Obligations.SubStoresDifferenceThenNotBorrow
  intro x y s
  exact ⟨_, rfl, State.subtract_writes rfl⟩

/-- Settles O19: the subtract of V[X] from V[Y]. -/
theorem subnStoresReversedDifferenceThenNotBorrow :
    Obligations.SubnStoresReversedDifferenceThenNotBorrow := by
  unfold Obligations.SubnStoresReversedDifferenceThenNotBorrow
  intro x y s
  exact ⟨_, rfl, State.subtract_writes rfl⟩

/-- Settles O20: the shifted byte into V[X], then its bottom or its top bit. -/
theorem shiftsStoreResultThenBitShiftedOut : Obligations.ShiftsStoreResultThenBitShiftedOut := by
  unfold Obligations.ShiftsStoreResultThenBitShiftedOut
  intro x s
  refine ⟨⟨_, rfl, fun hx => ?_, ?_, s.setResultThenFlag_onlyRegs x _ _⟩,
    ⟨_, rfl, fun hx => ?_, ?_, s.setResultThenFlag_onlyRegs x _ _⟩⟩
  · rw [State.getV_setResultThenFlag_of_ne_vf _ _ _ hx, BitVec.toNat_ushiftRight,
      Nat.shiftRight_one]
  · rw [State.getV_vf_setResultThenFlag, flagByte_lowBit_toNat]
  · rw [State.getV_setResultThenFlag_of_ne_vf _ _ _ hx, BitVec.toNat_shiftLeft, Nat.shiftLeft_eq,
      pow_one]
  · rw [State.getV_vf_setResultThenFlag, flagByte_highBit_toNat]

/-- RND writes V[X], the byte on the port and the model's draw counter (42_alu.md R151, log 7). -/
theorem execRnd_frame {x : Nibble} {kk : Byte} {s t : State} (he : exec (.rnd x kk) s = .next t) :
    RegsKeptBut [x] s t ∧ MemoryKept s t ∧ t.pc = s.pc ∧
      SpecialsKept { s with rnd := t.rnd, draws := t.draws } t := by
  refine ⟨fun y hy => ?_, onlyTheTwoStoresWriteMemory _ s t he nofun nofun,
    exec_pc_of_not_writesPc he rfl, ?_⟩
  · exact onlyNamedRegistersAndTheFlagChange _ s t y he (by simpa [namesDest] using hy) (.inr rfl)
  · cases he
    simp [SpecialsKept]

/-- Settles O21: the masked byte by what RND leaves in V[X], the rest by its frame. -/
theorem randomIsMaskedByTheImmediate : Obligations.RandomIsMaskedByTheImmediate := by
  unfold Obligations.RandomIsMaskedByTheImmediate
  intro x kk s
  obtain ⟨t, he, hmask⟩ := execRnd_masks x kk s
  refine ⟨t, he, hmask, ?_, execRnd_frame he⟩
  rw [hmask, masked_and_not_mask]

end Sys2Proof.Machine
end

section
/-! PROOFS. The family 43_index_memory.md: the writes of I, the stores at I and the block load. -/

namespace Sys2Proof.Machine

/-- Settles O23: each is one write of I; the sum is of 16-bit words. -/
theorem indexLoadsAndAddsWriteOnlyI : Obligations.IndexLoadsAndAddsWriteOnlyI := by
  unfold Obligations.IndexLoadsAndAddsWriteOnlyI
  intro nnn x s
  refine ⟨⟨_, rfl, zextAddr_toNat nnn, s.setI_onlyI _⟩, ⟨_, rfl, ?_, s.setI_onlyI _⟩⟩
  rw [State.setI_i, BitVec.toNat_add, zextByte_toNat]

/-- Settles O25: whatever the free value, `Fx29` is one write of it to I. -/
theorem fontAddressAboveFifteenWritesOnlyI : Obligations.FontAddressAboveFifteenWritesOnlyI := by
  unfold Obligations.FontAddressAboveFifteenWritesOnlyI
  exact fun x s _ => ⟨s.setI (glyphAddr (s.getV x)), rfl, s.setI_onlyI _⟩

section Reads

/-! What a read gives after a store of several bytes, and after one that has left the space. -/

variable {m : Memory} {a c : Nat}

/-- Memories that hold the same byte at an address are read alike there. -/
theorem Memory.read_congr {m' : Memory} (h : m'.peek c = m.peek c) : m'.read c = m.read c := by
  rw [Memory.read_eq, Memory.read_eq, h]

/-- A store that fits leaves its byte `k` at the `k`-th address (20_memory.md R56). -/
theorem Memory.read_pokeAll_at (hm : m.wf) {bs : List Byte} (fits : a + bs.length ≤ 4096) {k : Nat}
    {b : Byte} (hb : bs[k]? = some b) : (m.pokeAll a bs).read (a + k) = .ok b := by
  obtain ⟨hk, -⟩ := List.getElem?_eq_some_iff.1 hb
  rw [Memory.read_of_lt _ (by omega), Memory.peek_pokeAll hm a bs fits, if_pos (Nat.le_add_right a k),
    Nat.add_sub_cancel_left, hb, Option.getD_some]

/-- A store that fits changes no other address (20_memory.md R56). -/
theorem Memory.read_pokeAll_outside (hm : m.wf) {bs : List Byte} (fits : a + bs.length ≤ 4096)
    (hc : c < a ∨ a + bs.length ≤ c) : (m.pokeAll a bs).read c = m.read c := by
  refine Memory.read_congr ?_
  rw [Memory.peek_pokeAll hm a bs fits]
  rcases hc with hbelow | habove
  · rw [if_neg (by omega)]
  · rw [if_pos (by omega), List.getElem?_eq_none (by omega), Option.getD_none]

/-- The bytes a faulting store leaves free are those of its range (60_exceptions.md R239). -/
theorem Memory.read_forget_outside (hm : m.wf) {n d : Nat} (hc : c < a ∨ a + n ≤ c) :
    (m.forget a n d).read c = m.read c := by
  refine Memory.read_congr ?_
  rw [Memory.peek_forget hm, if_neg (by omega)]

end Reads

section Stores

/-! The store at I in its two cases: `Fx33` and `Fx55` are each this store with bytes of their own. -/

variable {s : State} {bytes : List Byte}

/-- A store that fits: its bytes at I upward, and all else kept (43_index_memory.md R173, R174). -/
theorem State.storeAtI_stores (hm : s.mem.wf) (fits : s.i.toNat + bytes.length ≤ 4096) :
    ∃ t, s.storeAtI bytes = .next t ∧
      (∀ k b, bytes[k]? = some b → t.mem.read (s.i.toNat + k) = .ok b) ∧
      MemoryKeptOutside s.i.toNat bytes.length s t ∧ RegsKeptBut [] s t ∧ SpecialsKept s t ∧
      t.pc = s.pc :=
  ⟨_, State.storeAtI_of_fits fits, fun _ _ hb => Memory.read_pokeAll_at hm fits hb,
    fun _ hc => Memory.read_pokeAll_outside hm fits hc, fun y _ => State.getV_congr rfl y,
    by simp [SpecialsKept], rfl⟩

/-- A store that does not fit: the raise, MEM[I..4095] free, and all else kept (60_exceptions.md R239;
log 1, log 8, log 21). -/
theorem State.storeAtI_raises (hm : s.mem.wf) (out : 4096 < s.i.toNat + bytes.length) :
    ∃ t, s.storeAtI bytes = .next t ∧
      t.cause = some (.addressOutOfRange (max s.i.toNat 4096)) ∧
      MemoryKeptOutside s.i.toNat (4096 - s.i.toNat) s t ∧ RegsKeptBut [] s t ∧ t.pc = s.pc ∧
      SpecialsKept { s with cause := t.cause, draws := t.draws } t := by
  rcases s.storeAtI_cases bytes with ⟨fits, -⟩ | ⟨-, hs⟩
  · exact absurd fits (Nat.not_le.2 out)
  · obtain ⟨hregs, hpc, hspec⟩ := State.storeAtI_frame hs
    exact ⟨_, hs, rfl, fun _ hc => Memory.read_forget_outside hm hc,
      fun y _ => State.getV_congr hregs y, hpc, hspec⟩

end Stores

/-- The three bytes the BCD store writes, as numbers (20_memory.md R68). -/
theorem bcdDigits_eq (b : Byte) : ∃ h d u : Byte, bcdDigits b = [h, d, u] ∧
    h.toNat = b.toNat / 100 ∧ d.toNat = b.toNat / 10 % 10 ∧ u.toNat = b.toNat % 10 := by
  have := b.isLt
  refine ⟨_, _, _, rfl, ?_⟩
  simp only [BitVec.toNat_ofNat]
  omega

/-- Settles O26: the store at I, of the three digits. -/
theorem bcdStoreWritesThreeDigits : Obligations.BcdStoreWritesThreeDigits := by
  unfold Obligations.BcdStoreWritesThreeDigits
  intro x s hm
  refine ⟨fun hfit => ?_, fun hout => State.storeAtI_raises hm (Nat.lt_succ_of_le hout)⟩
  obtain ⟨h, d, u, hdigits, hvalues⟩ := bcdDigits_eq (s.getV x)
  obtain ⟨t, hs, hbytes, hkept⟩ := State.storeAtI_stores (bytes := bcdDigits (s.getV x)) hm hfit
  rw [hdigits] at hbytes
  exact ⟨t, hs, ⟨h, d, u, hbytes 0 h rfl, hbytes 1 d rfl, hbytes 2 u rfl, hvalues⟩, hkept⟩

/-- Settles O27: the store at I, of V[0] to V[X]. -/
theorem blockStoreWritesV0ToVx : Obligations.BlockStoreWritesV0ToVx := by
  unfold Obligations.BlockStoreWritesV0ToVx
  intro x s hm
  have hlen := s.regsUpTo_length x
  refine ⟨fun hfit => ?_, fun hout => State.storeAtI_raises hm (by omega)⟩
  obtain ⟨t, hs, hbytes, hkept⟩ := State.storeAtI_stores hm (State.regsUpTo_fits hfit)
  rw [hlen] at hkept
  exact ⟨t, hs, fun y hy => hbytes _ _ (s.regsUpTo_getElem x y hy), hkept⟩

/-- A register the block load names holds the byte read for it (43_index_memory.md R175). -/
theorem State.read_eq_getV_setRegs_loaded {s : State} {x y : Nibble}
    (hfit : s.i.toNat + x.toNat < 4096) (hy : y.toNat ≤ x.toNat) :
    s.mem.read (s.i.toNat + y.toNat) = .ok ((s.setRegs (s.loadedRegs x)).getV y) := by
  rw [Memory.read_of_lt _ (by omega), State.getV_setRegs_loaded, if_pos hy, State.base]

/-- Settles O28: the two cases of the load from I, each with the load's frame. -/
theorem blockLoadReadsV0ToVx : Obligations.BlockLoadReadsV0ToVx := by
  unfold Obligations.BlockLoadReadsV0ToVx
  intro x s
  rcases s.loadFromI_cases x with ⟨hin, hl⟩ | ⟨hout, hl⟩ <;>
    obtain ⟨hregs, hmem, hpc, hspec⟩ := State.loadFromI_frame hl
  · exact ⟨fun hfit => ⟨_, hl, fun _ => State.read_eq_getV_setRegs_loaded hfit, hregs,
      .of_mem_eq hmem, hspec, hpc⟩, fun hout => absurd hin (Nat.not_lt.2 hout)⟩
  · exact ⟨fun hfit => absurd hfit (Nat.not_lt.2 hout),
      fun _ => ⟨_, hl, rfl, hregs, .of_mem_eq hmem, hpc, hspec⟩⟩

end Sys2Proof.Machine
end

section
/-! PROOFS. The family 44_display.md: the clear, and what a draw leaves in the pixels and in VF. -/

namespace Sys2Proof.Machine

/-- Writing the framebuffer leaves all else (10_state.md R29). -/
theorem State.setFb_frame (s : State) (f : Frame) :
    RegsKeptBut [] s (s.setFb f) ∧ MemoryKept s (s.setFb f) ∧
      SpecialsKept (s.setFb f) (s.setFb f) ∧ (s.setFb f).pc = s.pc :=
  ⟨fun y _ => State.getV_congr rfl y, .of_mem_eq rfl, by simp [SpecialsKept], rfl⟩

/-- Settles O32: `00E0` is one write of the empty framebuffer, whose every bit is 0. -/
theorem clearTurnsEveryPixelOff : Obligations.ClearTurnsEveryPixelOff := by
  unfold Obligations.ClearTurnsEveryPixelOff
  exact ⟨decode_encode (i := .cls) rfl,
    fun s => ⟨s.setFb 0, rfl, fun _ _ _ _ => BitVec.getLsbD_zero, s.setFb_frame 0⟩⟩

section Draw

/-! The draw of a sprite that fits in memory: the pixels and the collision in the statements' terms. -/

variable (s : State) (x y n : Nibble)

/-- What `Dxyn` draws from `s`: the framebuffer and whether there was a collision (44_display.md
R193). -/
def State.drawn : Frame × Bool :=
  drawRows (s.getV x).toNat (s.getV y).toNat (spriteRows s n.toNat) (s.fb, false)

/-- A sprite that fits is drawn, and its collision goes to VF (44_display.md R193). -/
theorem execDrw_of_fits (hfit : s.i.toNat + n.toNat ≤ 4096) :
    exec (.drw x y n) s =
      .next ((s.setFb (s.drawn x y n).1).setV vf (flagByte (s.drawn x y n).2)) := by
  rcases execDrw_cases x y n s with ⟨-, hd⟩ | ⟨hout, -⟩
  · exact hd
  · exact absurd hfit (Nat.not_le.2 hout)

/-- A sprite has fewer rows than the display, so no two of them share a row of pixels (44_display.md
R192). -/
theorem spriteRows_length_le : (spriteRows s n.toNat).length ≤ 32 := by
  rw [spriteRows_length]
  omega

/-- A sprite bit is XORed into its pixel (44_display.md R192). -/
theorem State.pixel_drawn_hit {i j : Nat} (hi : i < n.toNat) (hj : j < 8) :
    pixel (s.drawn x y n).1 (((s.getV x).toNat + j) % 64) (((s.getV y).toNat + i) % 32) =
      (pixel s.fb (((s.getV x).toNat + j) % 64) (((s.getV y).toNat + i) % 32) ^^
        spriteBitAt s i j) := by
  rw [← spriteBit_spriteRows s _ i j hi]
  exact pixel_drawRows_hit _ _ _ _ (by rwa [spriteRows_length]) hj (spriteRows_length_le s n)

/-- A pixel the sprite does not cover is kept (44_display.md R192). -/
theorem State.pixel_drawn_miss {px py : Nat} (hpx : px < 64)
    (hmiss : ∀ i j : Nat, i < n.toNat → j < 8 →
      ¬ (px = ((s.getV x).toNat + j) % 64 ∧ py = ((s.getV y).toNat + i) % 32)) :
    pixel (s.drawn x y n).1 px py = pixel s.fb px py :=
  pixel_drawRows_miss _ _ _ _ hpx (spriteRows_length_le s n) (by rwa [spriteRows_length])

/-- The collision is a 1 bit of the sprite on a pixel that is on (44_display.md R194). -/
theorem State.drawn_collides_iff :
    (s.drawn x y n).2 = true ↔ ∃ i j : Nat, i < n.toNat ∧ j < 8 ∧ spriteBitAt s i j = true ∧
      pixel s.fb (((s.getV x).toNat + j) % 64) (((s.getV y).toNat + i) % 32) = true := by
  have hrows := collision_drawRows_iff (s.getV x).toNat (s.getV y).toNat (spriteRows s n.toNat)
    (s.fb, false) (spriteRows_length_le s n)
  simp only [Bool.false_eq_true, false_or, spriteRows_length] at hrows
  rw [State.drawn, hrows]
  refine exists_congr fun i => exists_congr fun j => and_congr_right fun hi => ?_
  rw [spriteBit_spriteRows s _ i j hi]

end Draw

/-- Settles O33: the draw of a sprite that fits, its pixels bit by bit and its collision as VF. -/
theorem drawXorsTheSpriteAndReportsCollision : Obligations.DrawXorsTheSpriteAndReportsCollision := by
  unfold Obligations.DrawXorsTheSpriteAndReportsCollision
  intro x y n s hfit
  have he := execDrw_of_fits s x y n hfit
  have hcoll := s.drawn_collides_iff x y n
  obtain ⟨hregs, hmem, hpc, -⟩ := execDrw_frame he
  refine ⟨_, he, fun i j hi hj => s.pixel_drawn_hit x y n hi hj,
    fun px py hpx _ hmiss => s.pixel_drawn_miss x y n hpx hmiss, fun hmet => ?_, fun hnone => ?_,
    hregs, .of_mem_eq hmem, by simp [SpecialsKept], hpc⟩
  · rw [State.getV_setV_self, hcoll.2 hmet, flagByte, if_pos rfl]
  · rw [State.getV_setV_self, flagByte, if_neg (mt hcoll.1 hnone)]

/-- A draw leaves what the next draw reads its sprite from: I, and the bytes at I upward. -/
theorem execDrw_keeps_sprite {x y n : Nibble} {s t : State} (he : exec (.drw x y n) s = .next t) :
    t.i = s.i ∧ spriteBitAt t = spriteBitAt s := by
  obtain ⟨-, hmem, -, hI, -⟩ := execDrw_frame he
  exact ⟨hI, by funext i j; rw [spriteBitAt, spriteBitAt, hmem, hI]⟩

/-- Settles O35: the second draw reads the sprite and the coordinates of the first, so each pixel the
sprite covers is XORed twice with one bit, and the 1 bit meets the pixel the first draw turned on. -/
theorem drawingTwiceErasesAndCollides : Obligations.DrawingTwiceErasesAndCollides := by
  unfold Obligations.DrawingTwiceErasesAndCollides
  rintro x y n s t hfit ⟨i₁, j₁, hi₁, hj₁, hbit⟩ hoff he hx hy
  obtain ⟨hI, hsprite⟩ := execDrw_keeps_sprite he
  obtain ⟨_, he', hhit, hmiss, -, hnone, -⟩ := drawXorsTheSpriteAndReportsCollision x y n s hfit
  cases he.symm.trans he'
  obtain ⟨u, hu, hhit', hmiss', hmet', -⟩ :=
    drawXorsTheSpriteAndReportsCollision x y n t (by rwa [hI])
  rw [hx, hy, hsprite] at hhit' hmet'
  rw [hx, hy] at hmiss'
  refine ⟨hnone ?_, u, hu, hmet' ⟨i₁, j₁, hi₁, hj₁, hbit, ?_⟩, fun px py hpx hpy => ?_⟩
  · rintro ⟨i, j, hi, hj, -, hon⟩
    exact absurd hon (Bool.eq_false_iff.1 (hoff i j hi hj))
  · rw [hhit i₁ j₁ hi₁ hj₁, hoff i₁ j₁ hi₁ hj₁, hbit, Bool.false_xor]
  · by_cases hcover : ∃ i j : Nat, i < n.toNat ∧ j < 8 ∧
        px = ((s.getV x).toNat + j) % 64 ∧ py = ((s.getV y).toNat + i) % 32
    · obtain ⟨i, j, hi, hj, rfl, rfl⟩ := hcover
      rw [hhit' i j hi hj, hhit i j hi hj, Bool.xor_assoc, Bool.xor_self, Bool.xor_false]
    · have hfree : ∀ i j : Nat, i < n.toNat → j < 8 →
          ¬ (px = ((s.getV x).toNat + j) % 64 ∧ py = ((s.getV y).toNat + i) % 32) :=
        fun i j hi hj hpixel => hcover ⟨i, j, hi, hj, hpixel⟩
      exact (hmiss' px py hpx hpy hfree).trans (hmiss px py hpx hpy hfree)

end Sys2Proof.Machine
end

section
/-! PROOFS. The family 45_keypad_timers.md: the key skips, the wait for a key, the timer moves. -/

namespace Sys2Proof.Machine

section Keys

/-! What the key operations read of the snapshot, and the instructions of the family by it. -/

variable {s : State}

/-- An index the snapshot has reads its key (10_state.md R30). -/
theorem State.keyPressed_of_le {k : Byte} (h : k.toNat ≤ 15) :
    s.keyPressed k = s.key.getLsbD k.toNat :=
  if_pos h

/-- The scan finds the pressed key below which none is pressed (45_keypad_timers.md R212, D28). -/
theorem State.lowestKey_eq_some_iff {k : Nat} :
    s.lowestKey = some k ↔
      k < 16 ∧ s.key.getLsbD k = true ∧ ∀ j < k, s.key.getLsbD j = false := by
  simp only [State.lowestKey, List.find?_range_eq_some, List.mem_range, Bool.not_eq_true']
  exact and_left_comm

/-- The scan finds nothing when no key is pressed (45_keypad_timers.md R212, D28). -/
theorem State.lowestKey_eq_none_iff :
    s.lowestKey = none ↔ ∀ k < 16, s.key.getLsbD k = false := by
  simp only [State.lowestKey, List.find?_range_eq_none, Bool.not_eq_true']

/-- The wait with a key pressed writes its index (45_keypad_timers.md R212). -/
theorem execLdVxK_of_lowestKey {k : Nat} (x : Nibble) (h : s.lowestKey = some k) :
    exec (.ldVxK x) s = .next (s.setV x (BitVec.ofNat 8 k)) := by
  rcases execLdVxK_cases x s with ⟨j, hj, he⟩ | ⟨hnone, -⟩
  · cases h.symm.trans hj
    exact he
  · cases h.symm.trans hnone

/-- The wait with no key pressed rewinds (45_keypad_timers.md R212). -/
theorem execLdVxK_of_no_key (x : Nibble) (h : s.lowestKey = none) :
    exec (.ldVxK x) s = .next (s.setPc (s.pc - 2)) := by
  rcases execLdVxK_cases x s with ⟨_, hsome, -⟩ | ⟨-, he⟩
  · cases h.symm.trans hsome
  · exact he

end Keys

section Timers

variable (s : State)

/-- Writing DT leaves all else (10_state.md R24). -/
theorem State.setDt_frame (b : Byte) :
    RegsKeptBut [] s (s.setDt b) ∧ MemoryKept s (s.setDt b) ∧
      SpecialsKept (s.setDt b) (s.setDt b) ∧ (s.setDt b).pc = s.pc :=
  ⟨fun y _ => State.getV_congr rfl y, .of_mem_eq rfl, by simp [SpecialsKept], rfl⟩

/-- Writing ST leaves all else (10_state.md R25). -/
theorem State.setSt_frame (b : Byte) :
    RegsKeptBut [] s (s.setSt b) ∧ MemoryKept s (s.setSt b) ∧
      SpecialsKept (s.setSt b) (s.setSt b) ∧ (s.setSt b).pc = s.pc :=
  ⟨fun y _ => State.getV_congr rfl y, .of_mem_eq rfl, by simp [SpecialsKept], rfl⟩

variable {s}

/-- The tick of two timers at zero changes nothing (10_state.md R24, R25). -/
theorem State.tick_of_zero (hdt : s.dt = 0) (hst : s.st = 0) : s.tick = s := by
  have hdt' : countDown s.dt = s.dt := by rw [hdt]; rfl
  have hst' : countDown s.st = s.st := by rw [hst]; rfl
  rw [State.tick, hdt', hst']
  rfl

/-- The rewind of a stalled wait undoes the advance, and the tick remains (45_keypad_timers.md
R212). -/
theorem step_of_stalled_wait {op : Word} {x : Nibble} (hrun : s.cause = none)
    (hf : s.fetch = .ok op) (hd : decode op = .ok (.ldVxK x)) (hkey : s.lowestKey = none) :
    step s = .next s.tick := by
  have hpc : s.dispatchState.pc - 2 = s.pc := BitVec.add_sub_cancel s.pc 2
  rw [step_dispatch s op _ hrun hf hd, execLdVxK_of_no_key (s := s.dispatchState) x hkey, hpc]
  rfl

end Timers

/-- Settles O36: each skip is the shared one, on the key's bit or on its complement. -/
theorem keySkipsReadTheSnapshot : Obligations.KeySkipsReadTheSnapshot := by
  unfold Obligations.KeySkipsReadTheSnapshot
  intro x s hx
  have hkey : s.keyPressed (s.getV x) = s.key.getLsbD (s.getV x).toNat := State.keyPressed_of_le hx
  have hnot : (!s.keyPressed (s.getV x)) = true ↔ ¬ s.key.getLsbD (s.getV x).toNat = true := by
    rw [hkey, Bool.not_eq_true', Bool.not_eq_true]
  refine ⟨⟨_, rfl, s.skipIf_skips (by rw [hkey])⟩, ?_⟩
  obtain ⟨honly, hpc⟩ := s.skipIf_skips hnot
  exact ⟨_, rfl, honly, hpc.trans (ite_not ..)⟩

/-- Settles O38: the scan finds the lowest pressed key, whose index fits a byte, or none. -/
theorem waitForKeyTakesTheLowestOrReissues : Obligations.WaitForKeyTakesTheLowestOrReissues := by
  unfold Obligations.WaitForKeyTakesTheLowestOrReissues
  refine fun x s => ⟨fun k hk hpressed hlower => ?_, fun hnone => ?_⟩
  · have hlow := State.lowestKey_eq_some_iff.2 ⟨hk, hpressed, hlower⟩
    refine ⟨_, execLdVxK_of_lowestKey x hlow, ?_, s.setV_onlyRegs x _⟩
    rw [State.getV_setV_self, BitVec.toNat_ofNat, Nat.mod_eq_of_lt (by omega)]
  · exact ⟨_, execLdVxK_of_no_key x (State.lowestKey_eq_none_iff.2 hnone), rfl, s.setPc_onlyPc _⟩

/-- Settles O59: a stalled step is the tick alone. -/
theorem stalledKeyWaitChangesOnlyTheTimers : Obligations.StalledKeyWaitChangesOnlyTheTimers := by
  unfold Obligations.StalledKeyWaitChangesOnlyTheTimers
  intro s op x hrun hf hd hkey
  have hnone : s.lowestKey = none :=
    State.lowestKey_eq_none_iff.2 fun _ _ => by rw [hkey]; exact BitVec.getLsbD_zero
  exact ⟨s.tick, step_of_stalled_wait hrun hf hd hnone, rfl, countDown_toNat s.dt,
    countDown_toNat s.st, State.tick_of_zero⟩

/-- Settles O37: both skips ask the same free value, one of them for its complement. -/
theorem keySkipsAboveFifteenAreComplementary :
    Obligations.KeySkipsAboveFifteenAreComplementary := by
  unfold Obligations.KeySkipsAboveFifteenAreComplementary
  intro x s _
  obtain ⟨hskp, hpc⟩ := s.skipIf_skips (Iff.refl (s.keyPressed (s.getV x) = true))
  obtain ⟨hsknp, hpc'⟩ := s.skipIf_skips (Iff.refl ((!s.keyPressed (s.getV x)) = true))
  refine ⟨_, _, rfl, rfl, hskp, hsknp, ?_⟩
  rw [hpc, hpc']
  cases s.keyPressed (s.getV x)
  · exact .inr ⟨rfl, rfl⟩
  · exact .inl ⟨rfl, rfl⟩

/-- Settles O39: each move is one write, of V[X] or of a timer. -/
theorem timerMovesCopyBothWays : Obligations.TimerMovesCopyBothWays := by
  unfold Obligations.TimerMovesCopyBothWays
  intro x s
  exact ⟨⟨_, rfl, s.getV_setV_self x s.dt, s.setV_onlyRegs x s.dt⟩,
    ⟨_, rfl, rfl, s.setDt_frame (s.getV x)⟩, ⟨_, rfl, rfl, s.setSt_frame (s.getV x)⟩⟩

end Sys2Proof.Machine
end

section
/-! PROOFS. The family 60_exceptions.md: which fatal condition an instruction or a step can raise. -/

namespace Sys2Proof.Machine

section Causes

/-! What each instruction that can raise leaves in CAUSE: its one kind of condition, or CAUSE as it
was. -/

variable {s t : State}

/-- A store at I raises AddressOutOfRange or nothing (60_exceptions.md R231). -/
theorem State.storeAtI_cause {bytes : List Byte} (h : s.storeAtI bytes = .next t) :
    t.cause = s.cause ∨ ∃ a, 4096 ≤ a ∧ t.cause = some (.addressOutOfRange a) := by
  rcases s.storeAtI_cases bytes with ⟨-, hs⟩ | ⟨-, hs⟩ <;> (rw [hs] at h; cases h)
  · exact .inl rfl
  · exact .inr ⟨_, le_max_right _ _, rfl⟩

/-- The block load raises AddressOutOfRange or nothing (60_exceptions.md R231). -/
theorem State.loadFromI_cause {x : Nibble} (h : s.loadFromI x = .next t) :
    t.cause = s.cause ∨ ∃ a, 4096 ≤ a ∧ t.cause = some (.addressOutOfRange a) := by
  rcases s.loadFromI_cases x with ⟨-, hl⟩ | ⟨-, hl⟩ <;> (rw [hl] at h; cases h)
  · exact .inl rfl
  · exact .inr ⟨_, le_max_right _ _, rfl⟩

/-- DRW raises AddressOutOfRange or nothing (60_exceptions.md R231). -/
theorem execDrw_cause {x y n : Nibble} (h : exec (.drw x y n) s = .next t) :
    t.cause = s.cause ∨ ∃ a, 4096 ≤ a ∧ t.cause = some (.addressOutOfRange a) := by
  rcases execDrw_cases x y n s with ⟨-, hd⟩ | ⟨-, hd⟩ <;> (rw [hd] at h; cases h)
  · exact .inl rfl
  · exact .inr ⟨_, le_max_right _ _, rfl⟩

/-- RET raises StackUnderflow or nothing (60_exceptions.md R234). -/
theorem execRet_cause (h : exec .ret s = .next t) :
    t.cause = s.cause ∨ t.cause = some .stackUnderflow := by
  rcases execRet_cases s with ⟨_, hr⟩ | ⟨-, hr⟩ <;> (rw [hr] at h; cases h)
  · exact .inl rfl
  · exact .inr rfl

/-- CALL raises StackOverflow or nothing (60_exceptions.md R233). -/
theorem execCall_cause {n : Addr} (h : exec (.call n) s = .next t) :
    t.cause = s.cause ∨ t.cause = some .stackOverflow := by
  rcases execCall_cases n s with ⟨_, hc⟩ | ⟨-, hc⟩ <;> (rw [hc] at h; cases h)
  · exact .inl rfl
  · exact .inr rfl

/-- A skip raises nothing. -/
@[simp] theorem State.skipIf_cause (c : Bool) : (s.skipIf c).cause = s.cause := by
  rw [State.skipIf_eq, State.setPc_cause]

end Causes

/-- Settles O49: the six instructions that can raise have one condition each, and the others make
updates that leave CAUSE alone. -/
theorem eachInstructionRaisesOneKind : Obligations.EachInstructionRaisesOneKind := by
  unfold Obligations.EachInstructionRaisesOneKind
  intro i s t he
  cases i
  case ret => exact (execRet_cause he).imp_right fun h => .inl ⟨rfl, h⟩
  case call n => exact (execCall_cause he).imp_right fun h => .inr (.inl ⟨⟨n, rfl⟩, h⟩)
  case drw x y n =>
    exact (execDrw_cause he).imp_right fun h => .inr (.inr ⟨.inl ⟨x, y, n, rfl⟩, h⟩)
  case ldBVx x =>
    exact (State.storeAtI_cause he).imp_right fun h => .inr (.inr ⟨.inr (.inl ⟨x, rfl⟩), h⟩)
  case ldMemVx x =>
    exact (State.storeAtI_cause he).imp_right fun h => .inr (.inr ⟨.inr (.inr (.inl ⟨x, rfl⟩)), h⟩)
  case ldVxMem x =>
    exact (State.loadFromI_cause he).imp_right fun h => .inr (.inr ⟨.inr (.inr (.inr ⟨x, rfl⟩)), h⟩)
  case ldVxK =>
    obtain ⟨-, -, -, -, -, -, -, -, hcause, -⟩ := execLdVxK_frame he
    exact .inl hcause
  case seByte | sneByte | seReg | sneReg | skp | sknp =>
    cases he
    exact .inl (State.skipIf_cause _)
  all_goals
    cases he
    exact .inl rfl

/-- Settles O50: the fetch raises AddressOutOfRange and the decode InvalidOpcode, and a dispatch leaves
CAUSE at `none` or raises its instruction's own kind. -/
theorem registerOutOfRangeIsNeverRaised : Obligations.RegisterOutOfRangeIsNeverRaised := by
  unfold Obligations.RegisterOutOfRangeIsNeverRaised
  intro s t k h
  obtain ⟨hrun, ⟨-, rfl⟩ | ⟨_, _, -, -, -, rfl⟩ | ⟨_, i, -, -, -, he⟩⟩ := step_cases h
  · simp
  · simp
  · rcases eachInstructionRaisesOneKind i _ t he with hc | ⟨-, hc⟩ | ⟨-, hc⟩ | ⟨-, _, -, hc⟩
    · simp [hc, hrun]
    all_goals simp [hc]

/-- Settles O43: the failed decode is the raise alone. -/
theorem invalidOpcodeHaltsBeforeTheAdvance : Obligations.InvalidOpcodeHaltsBeforeTheAdvance := by
  unfold Obligations.InvalidOpcodeHaltsBeforeTheAdvance
  intro s op e hrun hf hd
  exact ⟨_, step_decode_error s op e hrun hf hd, s.raise_onlyRaised _⟩

end Sys2Proof.Machine
end

section
/-! PROOFS. The family 70_reset_and_hazards.md: the host's moves, what each changes and that each
keeps the invariant, and the end of a run. -/

namespace Sys2Proof.Machine

section Load

/-! The host's load in its two cases. -/

variable {s t : State} {bytes : List Byte}

/-- A program that fits is stored at the load address (70_reset_and_hazards.md R262). -/
theorem State.load_of_fits (h : 0x200 + bytes.length ≤ 4096) :
    s.load bytes = .next (s.setMem (s.mem.pokeAll 0x200 bytes)) :=
  if_pos h

/-- A program that would pass 4095 is refused whole (70_reset_and_hazards.md R262, D24, log 16). -/
theorem State.load_of_too_long (h : 4096 < 0x200 + bytes.length) :
    s.load bytes = .fault (.addressOutOfRange 4096) :=
  if_neg (Nat.not_le.2 h)

/-- A load that is not refused stored the program and did nothing else (70_reset_and_hazards.md
R262). -/
theorem State.load_eq_next (h : s.load bytes = .next t) :
    t = s.setMem (s.mem.pokeAll 0x200 bytes) := by
  by_cases hfit : 0x200 + bytes.length ≤ 4096
  · rw [State.load_of_fits hfit] at h
    cases h
    rfl
  · rw [State.load_of_too_long (Nat.not_le.1 hfit)] at h
    cases h

end Load

section Keys

/-! What `set_key` writes: one bit of the snapshot, and nothing but the snapshot. -/

variable (s : State) (keys : BitVec 16) (k : Nibble) (pressed : Bool)

/-- Key `k` holds what it was set to, and every other key what it held (70_reset_and_hazards.md
R264). -/
theorem getLsbD_setKeyBit (j : Nat) :
    (setKeyBit keys k pressed).getLsbD j = if j = k.toNat then pressed else keys.getLsbD j := by
  have hk : k.toNat < 16 := k.isLt
  by_cases hj : j = k.toNat
  · subst hj
    cases pressed <;> simp [setKeyBit, hk]
  · cases pressed
    · by_cases hlt : j < 16
      · simp [setKeyBit, hj, hlt]
      · simp [setKeyBit, hj, BitVec.getLsbD_of_ge keys j (Nat.not_lt.1 hlt)]
    · simp [setKeyBit, hj, Ne.symm hj]

/-- Writing KEY leaves all else (10_state.md R30). -/
theorem State.setKeys_frame :
    RegsKeptBut [] s (s.setKeys keys) ∧ MemoryKept s (s.setKeys keys) ∧
      SpecialsKept (s.setKeys keys) (s.setKeys keys) ∧ (s.setKeys keys).pc = s.pc :=
  ⟨fun y _ => State.getV_congr rfl y, .of_mem_eq rfl, by simp [SpecialsKept], rfl⟩

end Keys

section EndOfRun

/-! The jump to itself the end of a run stands at. -/

variable {s : State}

/-- An address below 4096 is the NNN field it is cut to (30_encoding.md R83). -/
theorem zextAddr_setWidth {w : Word} (h : w.toNat < 0x1000) : zextAddr (w.setWidth 12) = w := by
  apply BitVec.eq_of_toNat_eq
  rw [zextAddr_toNat, BitVec.toNat_setWidth, Nat.mod_eq_of_lt h]

/-- A jump to the instruction's own address undoes the advance, and the tick remains
(70_reset_and_hazards.md R269). -/
theorem step_of_jump_to_self (hrun : s.cause = none) (hpc : s.pc.toNat < 0x1000)
    (hf : s.fetch = .ok (encode (.jp (s.pc.setWidth 12)))) : step s = .next s.tick := by
  have htarget : zextAddr (s.pc.setWidth 12) = s.pc := zextAddr_setWidth hpc
  calc step s = exec (.jp (s.pc.setWidth 12)) s.dispatchState :=
        step_dispatch s _ _ hrun hf (decode_encode rfl)
    _ = .next (s.dispatchState.setPc (zextAddr (s.pc.setWidth 12))) := rfl
    _ = .next s.tick := by rw [htarget]; rfl

end EndOfRun

/-- Settles O52: the reset state meets the invariant, a load pokes memory byte by byte, the inputs
are no part of it, and a step keeps it. -/
theorem everyHostMoveKeepsTheInvariant : Obligations.EveryHostMoveKeepsTheInvariant := by
  unfold Obligations.EveryHostMoveKeepsTheInvariant
  intro m s t hinv h
  cases m with
  | reset =>
    cases h
    exact invariantHoldsAfterReset
  | load bytes =>
    obtain ⟨hmem, hrest⟩ := hinv
    rw [State.load_eq_next h]
    exact ⟨Memory.wf_pokeAll hmem _ _, hrest⟩
  | setKey | supplyRnd =>
    cases h
    exact hinv
  | step => exact everyStepKeepsTheInvariant s t hinv h

/-- Settles O56: the reads of a store of several bytes, from the load address. -/
theorem loadStoresTheProgramOrIsRefused : Obligations.LoadStoresTheProgramOrIsRefused := by
  unfold Obligations.LoadStoresTheProgramOrIsRefused
  refine fun bytes s hm => ⟨fun hlen => ?_, fun hlen => State.load_of_too_long (by omega)⟩
  have hfit : 0x200 + bytes.length ≤ 4096 := by omega
  exact ⟨_, State.load_of_fits hfit,
    fun k hk => Memory.read_pokeAll_at hm hfit (List.getElem?_eq_getElem hk),
    fun _ ha => Memory.read_pokeAll_outside hm hfit ha, fun y _ => State.getV_congr rfl y,
    by simp [SpecialsKept], rfl⟩

/-- Settles O57: the new snapshot bit by bit, and KEY alone written. -/
theorem setKeyChangesOneKey : Obligations.SetKeyChangesOneKey := by
  unfold Obligations.SetKeyChangesOneKey
  refine fun k p s => ⟨s.setKey k p, rfl, ?_, fun j hj => ?_, s.setKeys_frame _⟩
  · exact (getLsbD_setKeyBit s.key k p _).trans (if_pos rfl)
  · exact (getLsbD_setKeyBit s.key k p j).trans (if_neg hj)

/-- Settles O58: the jump to itself leaves the tick, which changes nothing with both timers at
zero. -/
theorem endOfRunIsAFixedPoint : Obligations.EndOfRunIsAFixedPoint := by
  unfold Obligations.EndOfRunIsAFixedPoint
  rintro s ⟨hrun, hpc, hf, hdt, hst⟩
  rw [step_of_jump_to_self hrun hpc hf, State.tick_of_zero hdt hst]

/-- Settles O55: each field of the reset state is the one O54 gives, and the inputs are the ones
before. -/
theorem hostResetClearsAllButTheInputs : Obligations.HostResetClearsAllButTheInputs := by
  unfold Obligations.HostResetClearsAllButTheInputs
  obtain ⟨hpc, hv, hi, hdt, hst, hsp, -, hcause, -⟩ := resetLeavesTheTableOfValues
  exact fun s => ⟨s.hostReset, rfl, hpc, fun x => (State.getV_congr rfl x).trans (hv x), hi, hdt,
    hst, hsp, hcause, rfl, rfl, rfl, rfl, rfl⟩

end Sys2Proof.Machine
end
